-- ==== Sys2Proof/Word.lean ====
section
/-! DEFINITION. The word types of the block (00 R6: `ADDR_W` = 7, `DATA_W` = 8; 30 R98, R91: 32-bit command
words, 16-bit wire patterns). Bit 0 is the least significant bit of every value (00 R7). -/

namespace Sys2Proof

/-- A Byte: an unsigned 8-bit value (00 R7). -/
abbrev Byte := BitVec 8

/-- A MEMS register address: 7 bits, 0x00 to 0x7F (00 R6, 20 R60). -/
abbrev Addr7 := BitVec 7

/-- A 16-bit value: `RESULT`, the images `CR` and `SR`, a `WIRE16` pattern. -/
abbrev Word16 := BitVec 16

/-- A `CMD32` command word (30 R98). -/
abbrev Word32 := BitVec 32

end Sys2Proof
end

