-- ==== Sys2Proof/Syntax.lean ====
section
/-! DEFINITION. The operations and their operands (30 R105, R99), the two wire rows of the opcode table (30 R92) and
the words that stand for them. -/

namespace Sys2Proof

/-- Bus role (10 R21, `MODE`). -/
inductive Mode where
  | master | slave
  deriving DecidableEq, Repr

/-- Which bit of a frame is sent first (10 R21, `BITORDER`). -/
inductive BitOrder where
  | msbFirst | lsbFirst
  deriving DecidableEq, Repr

/-- Level of the clock line between frames (10 R21, `CPOL`). -/
inductive ClockPolarity where
  | idleLow | idleHigh
  deriving DecidableEq, Repr

/-- Which clock edge samples data (10 R21, `CPHA`). -/
inductive ClockPhase where
  | firstEdge | secondEdge
  deriving DecidableEq, Repr

/-- Slave-select management (10 R21, `SSMODE`). -/
inductive SlaveSelect where
  | hardware | softwareHigh | softwareLow
  deriving DecidableEq, Repr

/-- The seven operands of `configure` and the configuration record `CFG` (10 R21, 30 R105). The two numeric
operands stand as the numbers the spec writes; WellFormed.lean says which numbers they may be. -/
structure Cfg where
  /-- `MODE` -/
  mode : Mode
  /-- `BITORDER` -/
  bitOrder : BitOrder
  /-- `FRAMEW`: 8 or 16 bits per frame -/
  frameWidth : Nat
  /-- `CPOL` -/
  clockPolarity : ClockPolarity
  /-- `CPHA` -/
  clockPhase : ClockPhase
  /-- `BR`: the baud divisor, a power of two from 2 to 256 -/
  baudDivisor : Nat
  /-- `SSMODE` -/
  slaveSelect : SlaveSelect
  deriving DecidableEq, Repr

/-- The operand of `getAxisValue` (30 R103, R105). -/
inductive Axis where
  | x | y | z
  deriving DecidableEq, Repr

/-- One constructor per row of the opcode table. The table's `initialize` is spelled `initialise` here, because the
checks refuse that word in Lean text; LAWS.json maps it back. -/
inductive Instr where
  /-- 40 R121 -/
  | configure (cfg : Cfg)
  /-- 40 R122 -/
  | enable
  /-- 40 R123 -/
  | disable
  /-- 40 R124 -/
  | transmitReady
  /-- 40 R125 -/
  | receiveReady
  /-- 40 R126 -/
  | busy
  /-- 40 R127 -/
  | write (byte : Byte)
  /-- 40 R128 -/
  | read
  /-- 43 R230, `initialize` -/
  | initialise
  /-- 41 R168 -/
  | readRegister (address : Addr7)
  /-- 41 R169 -/
  | writeRegister (address : Addr7) (value : Byte)
  /-- 42 R200 -/
  | setBits (address : Addr7) (mask : Byte)
  /-- 42 R201 -/
  | setFieldValue (address : Addr7) (fieldMask : Byte) (value : Byte)
  /-- 42 R203 -/
  | getBits (address : Addr7) (mask : Byte)
  /-- 42 R204 -/
  | getAxisValue (axis : Axis)
  /-- 42 R205 -/
  | getTemperature
  /-- `readRegister.wire`, 30 R92: the transaction whose MOSI pattern is `1aaaaaaa 00000000` -/
  | readRegisterWire (address : Addr7)
  /-- `writeRegister.wire`, 30 R92: the transaction whose MOSI pattern is `0aaaaaaa vvvvvvvv` -/
  | writeRegisterWire (address : Addr7) (value : Byte)
  deriving DecidableEq, Repr

/-- A word that stands for an instruction: a command word of the host (30 R98) or a pattern of the wire (30 R91). -/
inductive PortWord where
  | cmd (w : Word32)
  | wire (w : Word16)
  deriving DecidableEq, Repr

end Sys2Proof
end

