-- ==== Sys2Proof/WellFormed.lean ====
section
/-! DEFINITION. Which operands an instruction may carry (30 R105). Every operand but two has exactly the values of its
type (an address is 7 bits wide, 92 D19; an axis is one of three names); the two numeric operands of `configure` are
checked here. -/

namespace Sys2Proof

/-- `frameWidth` in 8, 16 (30 R105). -/
abbrev Cfg.frameWidthOk (c : Cfg) : Prop := c.frameWidth = 8 ∨ c.frameWidth = 16

/-- `baudDivisor` in 2, 4, 8, 16, 32, 64, 128, 256 (30 R105, 00 R6 `DIVISORS`). -/
abbrev Cfg.baudDivisorOk (c : Cfg) : Prop := c.baudDivisor ∈ [2, 4, 8, 16, 32, 64, 128, 256]

/-- Every field of the record holds a value of its column in 10 R21. -/
abbrev Cfg.WellFormed (c : Cfg) : Prop := c.frameWidthOk ∧ c.baudDivisorOk

/-- The operands are of the types of 30 R105. -/
def Instr.wellFormed : Instr → Bool
  | .configure c => decide c.WellFormed
  | .enable => true
  | .disable => true
  | .transmitReady => true
  | .receiveReady => true
  | .busy => true
  | .write _ => true
  | .read => true
  | .initialise => true
  | .readRegister _ => true
  | .writeRegister _ _ => true
  | .setBits _ _ => true
  | .setFieldValue _ _ _ => true
  | .getBits _ _ => true
  | .getAxisValue _ => true
  | .getTemperature => true
  | .readRegisterWire _ => true
  | .writeRegisterWire _ _ => true

/-- The same as a proposition. -/
abbrev Instr.WellFormed (i : Instr) : Prop := i.wellFormed = true

end Sys2Proof
end

