-- ==== Sys2Proof/Decode.lean ====
section
/-! DEFINITION. From words to instructions and back: the command word `CMD32` (30 R98 to R101), the control image
`CFGIMG` inside it (30 R94, R95), and the wire pattern `WIRE16` (30 R90 to R92). Decoding is total; a word that is no
instruction is rejected under a name. The encoder after it is written from the same tables. -/

namespace Sys2Proof

/-- Why a word is no instruction. For a command word each of them is the spec's `Illegal` (30 R101), and the machine
records the one code `IllegalCommand` for it. -/
inductive Illegal where
  /-- `OPC` is none of the 16 operation codes (30 R99). -/
  | unknownOperation
  /-- A field the operation does not use, or `Z`, is not 0 (30 R98, R101). -/
  | unusedFieldNotZero
  /-- The pair `SSM = 0, SSI = 1` (30 R95). -/
  | reservedSlaveSelect
  /-- Axis code 3 (30 R103). -/
  | illegalAxis
  /-- A wire pattern with the read bit set and a second frame other than the dummy 0x00: the master never sends it
  (30 R92, log 12). -/
  | dummyNotZero
  deriving DecidableEq, Repr

/-! ### Fields of the command word (30 R98) -/

/-- The fields of `CMD32`. -/
structure CmdFields where
  /-- bits 31:24 -/
  opc : Byte
  /-- bit 23 -/
  z : BitVec 1
  /-- bits 22:16 -/
  a : Addr7
  /-- bits 15:8 -/
  m : Byte
  /-- bits 7:0 -/
  v : Byte
  deriving DecidableEq, Repr

/-- The fields of a command word (30 R98). -/
def fieldsOf (w : Word32) : CmdFields where
  opc := w.extractLsb' 24 8
  z := w.extractLsb' 23 1
  a := w.extractLsb' 16 7
  m := w.extractLsb' 8 8
  v := w.extractLsb' 0 8

/-- The command word with the given fields (30 R98). -/
def packFields (f : CmdFields) : Word32 := f.opc ++ f.z ++ f.a ++ f.m ++ f.v

/-! ### The control image (30 R94, R95) -/

/-- `BRC = log2(BR) - 1` (30 R95). -/
def baudCode (divisor : Nat) : BitVec 3 := BitVec.ofNat 3 (Nat.log2 divisor - 1)

/-- The divisor a code stands for (30 R95). -/
def baudOfCode (code : BitVec 3) : Nat := 2 ^ (code.toNat + 1)

/-- `SSM` (bit 9) of a slave-select mode (30 R95). -/
def ssmOf : SlaveSelect → Bool
  | .hardware => false
  | .softwareHigh => true
  | .softwareLow => true

/-- `SSI` (bit 8) of a slave-select mode (30 R95). -/
def ssiOf : SlaveSelect → Bool
  | .hardware => false
  | .softwareHigh => true
  | .softwareLow => false

/-- `CR`, the packed 16-bit control image of a configuration and the enable bit (30 R94). -/
def controlImage (c : Cfg) (en : Bool) : Word16 :=
  0#4 ++ BitVec.ofBool (decide (c.frameWidth = 16)) ++ 0#1 ++ BitVec.ofBool (ssmOf c.slaveSelect)
    ++ BitVec.ofBool (ssiOf c.slaveSelect) ++ BitVec.ofBool (decide (c.bitOrder = .lsbFirst)) ++ BitVec.ofBool en
    ++ baudCode c.baudDivisor ++ BitVec.ofBool (decide (c.mode = .master))
    ++ BitVec.ofBool (decide (c.clockPolarity = .idleHigh)) ++ BitVec.ofBool (decide (c.clockPhase = .secondEdge))

/-- The configuration that an image `CFGIMG` names (30 R94, R95, R98: bits 6, 10 and 15:12 zero). -/
def cfgOfImage (img : Word16) : Except Illegal Cfg :=
  if img.extractLsb' 12 4 ≠ 0 ∨ img.getLsbD 10 ∨ img.getLsbD 6 then .error .unusedFieldNotZero
  else if !img.getLsbD 9 && img.getLsbD 8 then .error .reservedSlaveSelect
  else .ok
    { mode := if img.getLsbD 2 then .master else .slave
      bitOrder := if img.getLsbD 7 then .lsbFirst else .msbFirst
      frameWidth := if img.getLsbD 11 then 16 else 8
      clockPolarity := if img.getLsbD 1 then .idleHigh else .idleLow
      clockPhase := if img.getLsbD 0 then .secondEdge else .firstEdge
      baudDivisor := baudOfCode (img.extractLsb' 3 3)
      slaveSelect := if img.getLsbD 9 then (if img.getLsbD 8 then .softwareHigh else .softwareLow) else .hardware }

/-! ### Axis codes (30 R103) -/

/-- The axis code: X is 0, Y is 1, Z is 2. -/
def axisCode : Axis → Byte
  | .x => 0
  | .y => 1
  | .z => 2

/-- The axis of the value operand of `getAxisValue`: bits 7:2 zero, code 3 illegal (30 R100, R103). -/
def axisOfCode (v : Byte) : Except Illegal Axis :=
  if v.extractLsb' 2 6 ≠ 0 then .error .unusedFieldNotZero
  else match v.toNat with
    | 0 => .ok .x
    | 1 => .ok .y
    | 2 => .ok .z
    | _ => .error .illegalAxis

/-! ### Decoding -/

/-- An instruction whose unused fields are zero, else the name of the reason (30 R98, R101). -/
def whenUnusedZero (zero : Bool) (i : Instr) : Except Illegal Instr :=
  if zero then .ok i else .error .unusedFieldNotZero

/-- The command-word decoder (30 R99, R100, R101, R108). -/
def decodeCmd (w : Word32) : Except Illegal Instr :=
  let f := fieldsOf w
  let noA := f.z == 0 && f.a == 0
  let noM := f.m == 0
  let noV := f.v == 0
  match f.opc.toNat with
  | 0x01 => if noA then (cfgOfImage (f.m ++ f.v)).map .configure else .error .unusedFieldNotZero
  | 0x02 => whenUnusedZero (noA && noM && noV) .enable
  | 0x03 => whenUnusedZero (noA && noM && noV) .disable
  | 0x04 => whenUnusedZero (noA && noM && noV) .transmitReady
  | 0x05 => whenUnusedZero (noA && noM && noV) .receiveReady
  | 0x06 => whenUnusedZero (noA && noM && noV) .busy
  | 0x07 => whenUnusedZero (noA && noM) (.write f.v)
  | 0x08 => whenUnusedZero (noA && noM && noV) .read
  | 0x10 => whenUnusedZero (noA && noM && noV) .initialise
  | 0x11 => whenUnusedZero (f.z == 0 && noM && noV) (.readRegister f.a)
  | 0x12 => whenUnusedZero (f.z == 0 && noM) (.writeRegister f.a f.v)
  | 0x13 => whenUnusedZero (f.z == 0 && noV) (.setBits f.a f.m)
  | 0x14 => whenUnusedZero (f.z == 0) (.setFieldValue f.a f.m f.v)
  | 0x15 => whenUnusedZero (f.z == 0 && noV) (.getBits f.a f.m)
  | 0x16 => if noA && noM then (axisOfCode f.v).map .getAxisValue else .error .unusedFieldNotZero
  | 0x17 => whenUnusedZero (noA && noM && noV) .getTemperature
  | _ => .error .unknownOperation

/-- The wire decoder: the two rows of 30 R92, first frame in bits 15:8. -/
def decodeWire (w : Word16) : Except Illegal Instr :=
  if w.getLsbD 15 then
    if w.extractLsb' 0 8 = 0 then .ok (.readRegisterWire (w.extractLsb' 8 7)) else .error .dummyNotZero
  else .ok (.writeRegisterWire (w.extractLsb' 8 7) (w.extractLsb' 0 8))

/-- The decoder of both kinds of word. -/
def decode : PortWord → Except Illegal Instr
  | .cmd w => decodeCmd w
  | .wire w => decodeWire w

/-- The instruction the decoder reads from an instruction of `nbits` bits whose bits are `w`, bit 0 the least
significant bit of the word. -/
def decodeTableWord (nbits w : Nat) : Option Instr :=
  match nbits with
  | 32 => (decode (.cmd (BitVec.ofNat 32 w))).toOption
  | 16 => (decode (.wire (BitVec.ofNat 16 w))).toOption
  | _ => none

/-! ### Encoding -/

/-- The wire pattern of a transaction: direction, address, second frame (30 R90, R91). -/
def wirePattern (dir : Bool) (a : Addr7) (db : Byte) : Word16 := BitVec.ofBool dir ++ a ++ db

/-- The fields of the command word of an operation with no `configure` image: operation code, address, mask, value. -/
def cmdWord (opc : Byte) (a : Addr7) (m v : Byte) : PortWord := .cmd (packFields ⟨opc, 0, a, m, v⟩)

/-- The word of an instruction (30 R92, R98, R99). -/
def encode : Instr → PortWord
  | .configure c => .cmd (0x01#8 ++ 0#8 ++ controlImage c false)
  | .enable => cmdWord 0x02 0 0 0
  | .disable => cmdWord 0x03 0 0 0
  | .transmitReady => cmdWord 0x04 0 0 0
  | .receiveReady => cmdWord 0x05 0 0 0
  | .busy => cmdWord 0x06 0 0 0
  | .write b => cmdWord 0x07 0 0 b
  | .read => cmdWord 0x08 0 0 0
  | .initialise => cmdWord 0x10 0 0 0
  | .readRegister a => cmdWord 0x11 a 0 0
  | .writeRegister a v => cmdWord 0x12 a 0 v
  | .setBits a m => cmdWord 0x13 a m 0
  | .setFieldValue a m v => cmdWord 0x14 a m v
  | .getBits a m => cmdWord 0x15 a m 0
  | .getAxisValue ax => cmdWord 0x16 0 0 (axisCode ax)
  | .getTemperature => cmdWord 0x17 0 0 0
  | .readRegisterWire a => .wire (wirePattern true a 0)
  | .writeRegisterWire a v => .wire (wirePattern false a v)

/-! ### The match and mask table (30 R100, R92) -/

/-- The row of an instruction in the table of 30 R100: match and mask of its command word. The wire rows have the
16-bit match and mask of the opcode table. -/
def rowOf : Instr → PortWord × PortWord
  | .configure _ => (.cmd 0x01000000, .cmd 0xFFFFF440)
  | .enable => (.cmd 0x02000000, .cmd 0xFFFFFFFF)
  | .disable => (.cmd 0x03000000, .cmd 0xFFFFFFFF)
  | .transmitReady => (.cmd 0x04000000, .cmd 0xFFFFFFFF)
  | .receiveReady => (.cmd 0x05000000, .cmd 0xFFFFFFFF)
  | .busy => (.cmd 0x06000000, .cmd 0xFFFFFFFF)
  | .write _ => (.cmd 0x07000000, .cmd 0xFFFFFF00)
  | .read => (.cmd 0x08000000, .cmd 0xFFFFFFFF)
  | .initialise => (.cmd 0x10000000, .cmd 0xFFFFFFFF)
  | .readRegister _ => (.cmd 0x11000000, .cmd 0xFF80FFFF)
  | .writeRegister _ _ => (.cmd 0x12000000, .cmd 0xFF80FF00)
  | .setBits _ _ => (.cmd 0x13000000, .cmd 0xFF8000FF)
  | .setFieldValue _ _ _ => (.cmd 0x14000000, .cmd 0xFF800000)
  | .getBits _ _ => (.cmd 0x15000000, .cmd 0xFF8000FF)
  | .getAxisValue _ => (.cmd 0x16000000, .cmd 0xFFFFFFFC)
  | .getTemperature => (.cmd 0x17000000, .cmd 0xFFFFFFFF)
  | .readRegisterWire _ => (.wire 0x8000, .wire 0x80FF)
  | .writeRegisterWire _ _ => (.wire 0x0000, .wire 0x8000)

/-- A word selects a row when `w & mask = match` (30 R100). -/
def matchesRow : PortWord → PortWord × PortWord → Bool
  | .cmd w, (.cmd pattern, .cmd mask) => w &&& mask == pattern
  | .wire w, (.wire pattern, .wire mask) => w &&& mask == pattern
  | _, _ => false

end Sys2Proof
end

