-- ==== Sys2Proof/Config.lean ====
section
/-! DEFINITION. The values the spec leaves open (92, open parameters; 60 R253, draws). Each is a constant with no
body: nothing in Lean can evaluate one or prove a value of one, so a theorem about the model holds whatever they are. -/

namespace Sys2Proof

/-- The free Bytes of `draw_8()` (60 R253), by position in the run: `Config.draw n` is under no law.
The state's counter `draws` says which one is next (log 6). -/
opaque Config.draw : Nat → Byte

/-- `readValue` of an open `SlaveModel` (20 R74): device state, register address, position of the choice. The state
type of the device is coded by a natural number (log 7). -/
opaque Config.deviceRead : Nat → Addr7 → Nat → Byte

/-- `writeValue` of an open `SlaveModel` (20 R74): device state, register address, value (log 7). -/
opaque Config.deviceWrite : Nat → Addr7 → Byte → Nat

/-- `F_PCLK`, the frequency of the peripheral clock (00 R6, OPEN, timing only). Its type and unit are not given: a
natural number of an unnamed unit is a DESIGN CHOICE of the model, unsafe for a claim about the number (log 36). -/
opaque Config.fPclk : Nat

end Sys2Proof
end

