-- ==== Sys2Proof/Machine/State.lean ====
section
/-! DEFINITION. Everything the spec gives the machine (10 R20 to R42), the environment it runs against (the slave,
20 R74 to R79; the event trace, 20 R70; the host's program, 70 R298), and the model's own fields (the schedule and
the free values' counter). All of it is plain data. -/

namespace Sys2Proof.Machine

/-! ### Names -/

/-- The 16 operations, as `MOP` and the fault codes name them (10 R35, 30 R99). `initialise` is the table's
`initialize`. -/
inductive Op where
  | configure | enable | disable | transmitReady | receiveReady | busy | write | read
  | initialise | readRegister | writeRegister | setBits | setFieldValue | getBits | getAxisValue | getTemperature
  deriving DecidableEq, Repr

/-- `PHASE`, the position in the six-step transaction; the number is the step about to be performed (10 R32). -/
inductive Phase where
  | idle | p2 | p3 | p4 | p5 | p6
  deriving DecidableEq, Repr

/-- `LINEMODE`: the only line mode the block has (10 R22, 00 R4 (e)). -/
inductive LineMode where
  | twoLineUnidirectional
  deriving DecidableEq, Repr

/-- `WireCfg`: the framing in force when a frame was loaded (20 R74, 40 R129). -/
structure WireCfg where
  bitOrder : BitOrder
  frameWidth : Nat
  clockPolarity : ClockPolarity
  clockPhase : ClockPhase
  mode : Mode
  lineMode : LineMode
  deriving DecidableEq, Repr

/-! ### The collaborator boundary (43 R231) and the event trace (20 R70) -/

/-- The peripherals whose clock `initialize` enables; each names an OPEN constant of 00 R6. That the two differ is a
DESIGN CHOICE of the model (log 21). Unsafe: a claim that tells them apart is about the model. -/
inductive Peripheral where
  | spiInstance | csPort
  deriving DecidableEq, Repr

/-- The pins the block configures or drives; each names an OPEN port and pin of 00 R6. That the four differ pairwise is
a DESIGN CHOICE of the model (log 21). Unsafe: a claim that tells them apart is about the model. -/
inductive Pin where
  | sckPin | misoPin | mosiPin | csPin
  deriving DecidableEq, Repr

/-- The alternate-function number, the OPEN constant `SPI_AF` (00 R6). -/
inductive AfNumber where
  | spiAf
  deriving DecidableEq, Repr

/-- Pull resistor of a pin (43 R234). -/
inductive Pull where
  | noPull | pullUp
  deriving DecidableEq, Repr

/-- Speed of a pin: the bus pins' medium speed, the OPEN constant `CS_PIN_SPEED` (43 R234). The spec leaves open whether
`CS_PIN_SPEED` is medium (91 N7, 92 D35); that `csPinSpeed` is a name of its own, so that `csPinSpeed ≠ medium` can be
proved, is a DESIGN CHOICE of the model (log 21). Unsafe: a claim that rests on that inequality is about the model. -/
inductive PinSpeed where
  | medium | csPinSpeed
  deriving DecidableEq, Repr

/-- Output type of a pin (43 R234). -/
inductive Drive where
  | pushPull
  deriving DecidableEq, Repr

/-- The six collaborator primitives (43 R231). `readPin` is listed by the source and called by no operation. -/
inductive Collab where
  | enableClock (p : Peripheral)
  | configurePinAsAlternateFunction (pin : Pin) (af : AfNumber) (drive : Drive) (pull : Pull) (speed : PinSpeed)
  | configurePinAsOutput (pin : Pin) (pull : Pull) (speed : PinSpeed) (drive : Drive)
  | setPin (pin : Pin)
  | resetPin (pin : Pin)
  | readPin (pin : Pin)
  deriving DecidableEq, Repr

/-- An event of the trace (20 R70). -/
inductive Event where
  /-- a chip-select drive to low, whether or not the level changes -/
  | csLow
  /-- a chip-select drive to high, whether or not the level changes -/
  | csHigh
  /-- a Byte written to `TXBUF` -/
  | tx (b : Byte)
  /-- one frame exchanged with the slave -/
  | xfer (mosi miso : Byte)
  /-- a Byte read -/
  | rx (b : Byte)
  /-- one collaborator call -/
  | collab (c : Collab)
  deriving DecidableEq, Repr

/-! ### Faults of the spec (60 R251) -/

/-- What the sticky register `FAULT` records: one of the 17 codes with its info (60 R251). -/
inductive FaultRec where
  /-- 1, class fault: an operation issued while `MOP` is not `None` (the operation issued, the value of `MOP`) -/
  | reentry (issued running : Op)
  /-- 2, class refuse: a data-path or configuration primitive issued by the host with `INIT_DONE = 1` -/
  | ownershipViolation (op : Op)
  /-- 3, class refuse: a SPIM primitive with `PLAT.SPI_CLK = 0` -/
  | clockOff (op : Op)
  /-- 4, class refuse: `configure` with `EN = 1` -/
  | configureWhileEnabled
  /-- 5, class fault: `enable` with `CFG_VALID = 0` -/
  | enableUnconfigured
  /-- 6, class fault: `disable` in flight (`TXE`, `SHIFT_ACT`, `BSY`) -/
  | disableInFlight (txe shiftAct bsy : Bool)
  /-- 7, class refuse: `write` with `EN = 0` -/
  | notEnabled (byte : Byte)
  /-- 8, class refuse: `write` outside the admitted transfer subset (40 R133) -/
  | unsupportedMode (cfg : Cfg)
  /-- 9, class fault: `write` with `TXE = 0` (the Byte, the Byte already in `TXBUF`) -/
  | txNotReady (byte pending : Byte)
  /-- 10, class fault: a frame completes with `RXNE = 1` (the unread Byte, the new Byte) -/
  | rxOverrun (unread new : Byte)
  /-- 11, class refuse: a frame exchanged with a selected slave under another framing than the required one -/
  | framingMismatch (w : WireCfg)
  /-- 12, class refuse: a third frame under one chip-select assertion (the MOSI Byte) -/
  | slaveOverlong (mosi : Byte)
  /-- 13, class refuse: an MTS operation other than `initialize` with `INIT_DONE = 0` -/
  | notInitialised (op : Op)
  /-- 14, class refuse: `initialize` with `INIT_DONE = 1` -/
  | alreadyInitialised
  /-- 15, class refuse: a chip-select drive with `CS_DRV = 0` -/
  | csNotDriven
  /-- 16, class refuse: a stray bit in the value of `setFieldValue` under the policy `Refuse` -/
  | strayFieldValue (fieldMask value : Byte)
  /-- 17, class refuse: a command word that matches no operation (the word) -/
  | illegalCommand (word : Word32)
  deriving DecidableEq, Repr

/-! ### The slave (20 R74 to R79) -/

/-- The slave's transaction phase (20 R76). -/
inductive SlavePhase where
  | desel
  | awaitAddr
  | awaitData (dir : Bool) (a : Addr7)
  | done
  deriving DecidableEq, Repr

/-- Which instance of `SlaveModel` is behind the link: the two the spec names and one left wholly open (20 R74, R78,
R79; log 7). -/
inductive SlaveKind where
  /-- `EchoSlave`: plain storage (20 R78) -/
  | echo
  /-- `FreeSlave`: every read is a draw (20 R79) -/
  | free
  /-- an arbitrary `SlaveModel`: `Config.deviceRead`, `Config.deviceWrite` (20 R74) -/
  | device
  deriving DecidableEq, Repr

/-- The 128-Byte register space of the slave: cells in rising address order, none holding what an unlisted address
reads as (20 R60; log 8). -/
abbrev Memory := List Host.Cell

/-- The slave's state (10 R42, 20 R74, R76). -/
structure Slave where
  /-- the transaction phase (20 R76) -/
  phase : SlavePhase
  /-- which instance answers -/
  kind : SlaveKind
  /-- `regs` of `EchoSlave` (20 R78) -/
  regs : Memory
  /-- the state of the open device, coded by a number (log 7) -/
  device : Nat
  deriving DecidableEq, Repr

/-- `STRAY_VALUE_POLICY` (00 R6, 42 R202). -/
inductive StrayPolicy where
  | refuse | unmasked | masked
  deriving DecidableEq, Repr

/-! ### The schedule (40 R129, R135; log 4) -/

/-- Who moves next: the host issues its next word, an agent takes a step if one is enabled, or the block is reset. -/
inductive Turn where
  /-- the host presents its next word, also while an operation is in progress -/
  | host
  /-- a step of the sequencer (41 R162 to R167, 43 R230) -/
  | sequencer
  /-- S-LOAD (40 R129) -/
  | load
  /-- S-XFER (40 R130) -/
  | xfer
  /-- S-DRAIN (40 R131) -/
  | drain
  /-- the reset event (70 R280) -/
  | reset
  deriving DecidableEq, Repr

/-! ### The state -/

/-- The state of the block, its environment and the model's own fields. -/
structure State where
  /-- `CFG` (10 R21) -/
  cfg : Cfg
  /-- `CFG_VALID` (10 R23) -/
  cfgValid : Bool
  /-- `EN` (10 R24) -/
  en : Bool
  /-- `TXBUF` with its full bit; `TXE` is its emptiness (10 R25) -/
  txBuf : Option Byte
  /-- `SHIFT` (10 R26) -/
  shift : Byte
  /-- `SHIFT_ACT` (10 R26) -/
  shiftAct : Bool
  /-- `wirecfg`: the framing of the frame in `SHIFT`, latched at S-LOAD (40 R129; log 17) -/
  wireCfg : WireCfg
  /-- `RXBUF` with its full bit; `RXNE` is its fullness (10 R27) -/
  rxBuf : Option Byte
  /-- `BSY` (10 R28) -/
  bsy : Bool
  /-- `PHASE` (10 R32) -/
  phase : Phase
  /-- `CS_N`, true is 1 (deasserted); it has a value only while `CS_DRV = 1` (10 R33; log 18) -/
  csN : Bool
  /-- `CS_DRV`, also the fourth bit of `PLAT` (10 R33, R37) -/
  csDrv : Bool
  /-- `DIR`, true for a read (10 R34) -/
  dir : Bool
  /-- `ADDR` (10 R34) -/
  addr : Addr7
  /-- `WDATA` (10 R34) -/
  wdata : Byte
  /-- `CAPT` (10 R34) -/
  capt : Byte
  /-- `MOP` (10 R35) -/
  mop : Option Op
  /-- `MSTAGE`: completed sub-operations of the operation in progress (10 R35, 42 R206; log 15) -/
  mstage : Nat
  /-- `MMASK` (10 R35) -/
  mmask : Byte
  /-- `MVAL` (10 R35) -/
  mval : Byte
  /-- `MTMP` (10 R35) -/
  mtmp : Byte
  /-- the address operand of the operation in progress; the model's own latch (41 R162; log 14) -/
  maddr : Addr7
  /-- the operation in progress came through the host's command port; the model's own latch (41 R160; log 14) -/
  hostIssued : Bool
  /-- `RESULT` (10 R35, 30 R102) -/
  result : Word16
  /-- `INIT_DONE` (10 R36) -/
  initDone : Bool
  /-- `PLAT.SPI_CLK` (10 R37) -/
  spiClk : Bool
  /-- `PLAT.CS_CLK` (10 R37) -/
  csClk : Bool
  /-- `PLAT.PINS_AF` (10 R37) -/
  pinsAf : Bool
  /-- `FAULT` (10 R38) -/
  fault : Option FaultRec
  /-- the slave (10 R42) -/
  slave : Slave
  /-- the event trace, oldest first; the block never reads it (20 R70; log 32) -/
  trace : List Event
  /-- `STRAY_VALUE_POLICY` (42 R202; log 10) -/
  strayPolicy : StrayPolicy
  /-- the host's pending words, next first (70 R298; log 13) -/
  program : List PortWord
  /-- the position of the next free Byte; the model's own counter (log 6) -/
  draws : Nat
  /-- the turns still to come; the model's own field (log 4) -/
  sched : List Turn
  /-- `LINK_FAIR` as data: after the turns of `sched`, every enabled shifter step eventually fires (40 R135; log 5) -/
  linkFair : Bool
  deriving DecidableEq, Repr

/-- The reasons a step could stop with a fault outcome: none. Every fault and refusal code of the spec is state: it is
recorded in the register `FAULT` by a step that gives a next state (60 R258), and a faulted block then stays as it is
until reset (60 R259; log 9). -/
inductive Fault where
  deriving DecidableEq, Repr

/-- The reasons a step gives a word no meaning. -/
inductive Refusal where
  /-- Raised by `exec` alone, for an instruction that has no meaning yet; no arm does. Safe: the run stops. -/
  | notModelled (mnemonic : String)
  /-- Raised by `step`, for a wire pattern that is no row of the opcode table: a read with a second frame other than
  the dummy 0x00, which the master never sends (30 R92; log 12). Safe: the run stops. -/
  | notATransaction (w : Word16)
  deriving DecidableEq, Repr

/-- `CFG` before the first `configure`: the record whose control image is 0x0000. R43 gives it no value and no rule
reads it while `CFG_VALID = 0` (log 2). -/
def resetCfg : Cfg where
  mode := .slave
  bitOrder := .msbFirst
  frameWidth := 8
  clockPolarity := .idleLow
  clockPhase := .firstEdge
  baudDivisor := 2
  slaveSelect := .hardware

/-- The machine right after reset (10 R43, 70 R280, R281). Fields R43 calls 'no value' hold the value of log 2. -/
def State.reset : State where
  cfg := resetCfg
  cfgValid := false
  en := false
  txBuf := none
  shift := 0
  shiftAct := false
  wireCfg :=
    { bitOrder := .msbFirst, frameWidth := 8, clockPolarity := .idleLow, clockPhase := .firstEdge, mode := .slave
      lineMode := .twoLineUnidirectional }
  rxBuf := none
  bsy := false
  phase := .idle
  csN := true
  csDrv := false
  dir := false
  addr := 0
  wdata := 0
  capt := 0
  mop := none
  mstage := 0
  mmask := 0
  mval := 0
  mtmp := 0
  maddr := 0
  hostIssued := false
  result := 0
  initDone := false
  spiClk := false
  csClk := false
  pinsAf := false
  fault := none
  slave := { phase := .desel, kind := .echo, regs := [], device := 0 }
  trace := []
  strayPolicy := .refuse
  program := []
  draws := 0
  sched := []
  linkFair := true

end Sys2Proof.Machine
end

