-- ==== Sys2Proof/Machine/Flags.lean ====
section
/-! DEFINITION. The status flags (10 R40) and the packed images of control and status (30 R94, R96). No flag but `BSY`
is storage of its own. -/

namespace Sys2Proof.Machine

/-- `TXE`: the transmit buffer can accept a new Byte (10 R25). -/
def State.txe (s : State) : Bool := s.txBuf.isNone

/-- `RXNE`: a received Byte is available to read (10 R27). -/
def State.rxne (s : State) : Bool := s.rxBuf.isSome

/-- A transfer is in flight in the sense of `disable`: `TXE = 0` or `SHIFT_ACT = 1` or `BSY = 1` (40 R123). -/
def State.inFlight (s : State) : Bool := !s.txe || s.shiftAct || s.bsy

/-- The chip-select line is at 0: it is driven and `CS_N = 0` (10 R33). -/
def State.selected (s : State) : Bool := s.csDrv && !s.csN

/-- `LINEMODE`, hardwired (10 R22). -/
def State.lineMode (_ : State) : LineMode := .twoLineUnidirectional

/-- `SR`, the packed status image: `RXNE` at bit 0, `TXE` at bit 1, `BSY` at bit 7, every other bit 0 (30 R96). -/
def statusImage (s : State) : Word16 :=
  0#8 ++ BitVec.ofBool s.bsy ++ 0#5 ++ BitVec.ofBool s.txe ++ BitVec.ofBool s.rxne

/-- `CR`, the packed control image of the state (10 R29, 30 R94). While `CFG_VALID = 0` its configuration bits hold no
value in the spec; here they are those of the reset record (log 2). -/
def controlRegister (s : State) : Word16 := controlImage s.cfg s.en

/-- The packed code of `PHASE`: Idle 0, P2 to P6 their number; 1 and 7 unused (10 R32). -/
def phaseCode : Phase → BitVec 3
  | .idle => 0
  | .p2 => 2
  | .p3 => 3
  | .p4 => 4
  | .p5 => 5
  | .p6 => 6

/-- The code number of a fault (60 R251). -/
def faultCode : FaultRec → Nat
  | .reentry _ _ => 1
  | .ownershipViolation _ => 2
  | .clockOff _ => 3
  | .configureWhileEnabled => 4
  | .enableUnconfigured => 5
  | .disableInFlight _ _ _ => 6
  | .notEnabled _ => 7
  | .unsupportedMode _ => 8
  | .txNotReady _ _ => 9
  | .rxOverrun _ _ => 10
  | .framingMismatch _ => 11
  | .slaveOverlong _ => 12
  | .notInitialised _ => 13
  | .alreadyInitialised => 14
  | .csNotDriven => 15
  | .strayFieldValue _ _ => 16
  | .illegalCommand _ => 17

/-- The class of a fault code is fault (a stated caller obligation was broken), not refuse (60 R251). -/
def classIsFault : FaultRec → Bool
  | .reentry _ _ => true
  | .ownershipViolation _ => false
  | .clockOff _ => false
  | .configureWhileEnabled => false
  | .enableUnconfigured => true
  | .disableInFlight _ _ _ => true
  | .notEnabled _ => false
  | .unsupportedMode _ => false
  | .txNotReady _ _ => true
  | .rxOverrun _ _ => true
  | .framingMismatch _ => false
  | .slaveOverlong _ => false
  | .notInitialised _ => false
  | .alreadyInitialised => false
  | .csNotDriven => false
  | .strayFieldValue _ _ => false
  | .illegalCommand _ => false

end Sys2Proof.Machine
end

