-- ==== Sys2Proof/Machine/Operands.lean ====
section
/-! DEFINITION. How operands become the Bytes that move, and how Bytes become results (30 R104, R102; 42 R200 to R208).
The block computes nothing else. -/

namespace Sys2Proof.Machine

/-! ### Widths and results -/

/-- `zext_16` of a Byte (00 R8). -/
def zext16 (b : Byte) : Word16 := b.setWidth 16

/-- `sint16`: a 16-bit pattern read as two's complement (00 R7). -/
def sint16 (p : Word16) : Int := p.toInt

/-- A bool result: 0x0001 for true, 0x0000 for false (30 R102). -/
def boolResult (b : Bool) : Word16 := if b then 1 else 0

/-! ### The transaction's two frames -/

/-- The address byte: direction in bit 7 (1 is read), address in bits 6:0 (30 R90). -/
def addressByte (dir : Bool) (a : Addr7) : Byte := BitVec.ofBool dir ++ a

/-- The direction a slave reads from an address byte (20 R77). -/
def directionOf (b : Byte) : Bool := b.getLsbD 7

/-- The address a slave reads from an address byte (20 R77). -/
def addressOf (b : Byte) : Addr7 := b.extractLsb' 0 7

/-- The second frame: the dummy 0x00 of a read, the data of a write (30 R104 (b)). -/
def secondFrame (dir : Bool) (wdata : Byte) : Byte := if dir then 0x00 else wdata

/-! ### The MEMS addresses and masks the source names (20 R61 to R63) -/

/-- The temperature register, 0x0C (20 R61). -/
def temperatureAddress : Addr7 := 0x0C

/-- Control register 4, 0x20 (20 R61). -/
def controlRegister4 : Addr7 := 0x20

/-- The masks of the three axis-enable bits of control register 4 (20 R62). -/
def axisEnableMasks : List Byte := [0x01, 0x02, 0x04]

/-- The mask of the output-data-rate field of control register 4 (20 R62). -/
def dataRateMask : Byte := 0xF0

/-- The address of an axis' low Byte; its high Byte is one above (20 R63, 42 R204). -/
def axisBase : Axis → Addr7
  | .x => 0x28
  | .y => 0x2A
  | .z => 0x2C

/-! ### Byte computations (42 R208) -/

/-- `r | mask` (42 R200). -/
def orMask (r mask : Byte) : Byte := r ||| mask

/-- `r & mask`, not shifted (42 R203). -/
def andMask (r mask : Byte) : Byte := r &&& mask

/-- `value & ~fieldMask != 0` (42 R202). -/
def hasStrayBits (fieldMask value : Byte) : Bool := value &&& ~~~fieldMask != 0

/-- The Byte `setFieldValue` writes back: the reading of §4.2, or under the policy `Masked` the reading of §8; under
`Refuse` the operation runs only where the two agree (42 R201, R202). -/
def fieldByte (policy : StrayPolicy) (r fieldMask value : Byte) : Byte :=
  match policy with
  | .refuse => (r &&& ~~~fieldMask) ||| value
  | .unmasked => (r &&& ~~~fieldMask) ||| value
  | .masked => (r &&& ~~~fieldMask) ||| (value &&& fieldMask)

/-- The 16-bit pattern of an axis value, high Byte above low Byte (42 R204, 30 R104 (f)). -/
def axisPattern (hi lo : Byte) : Word16 := (zext16 hi <<< 8) ||| zext16 lo

end Sys2Proof.Machine
end

