-- ==== Sys2Proof/Machine/Ops.lean ====
section
/-! DEFINITION. The named operations over the state: the slave's memory, the event trace, entering a fault and leaving
it by reset, the slave model and the link, the chip-select drives, and the bodies of the SPIM primitives as the host and
the sequencer both invoke them. An operation that can raise a fault answers `Except FaultRec`, and `settle` turns that
into the next state. -/

namespace Sys2Proof.Machine

/-! ### The slave's register space (20 R60, R78) -/

/-- What an address with no cell reads as (log 8). -/
def unlistedByte : Byte := 0x00

/-- The Byte at an address. -/
def Memory.read : Memory → Nat → Byte
  | [], _ => unlistedByte
  | (b, v) :: m, a => if a = b then v else Memory.read m a

/-- One cell, or none where the value is what an unlisted address reads as. -/
def Memory.cell (a : Nat) (v : Byte) : Memory := if v = unlistedByte then [] else [(a, v)]

/-- The memory with the Byte `v` at address `a`, in canonical form. -/
def Memory.write : Memory → Nat → Byte → Memory
  | [], a, v => Memory.cell a v
  | (b, w) :: m, a, v =>
    if a < b then Memory.cell a v ++ (b, w) :: m
    else if a = b then Memory.cell a v ++ m
    else (b, w) :: Memory.write m a v

/-- The canonical form above a lower bound: rising addresses of the space, no cell that need not be listed. -/
def Memory.wfFrom (low : Nat) : Memory → Bool
  | [] => true
  | (b, w) :: m => decide (low ≤ b) && decide (b < 128) && decide (w ≠ unlistedByte) && Memory.wfFrom (b + 1) m

/-- The canonical form: addresses 0x00 to 0x7F, strictly rising, no cell equal to what an unlisted address reads as. -/
def Memory.wf (m : Memory) : Bool := Memory.wfFrom 0 m

/-! ### Trace and faults -/

/-- `emit`: append an event to the trace (00 R8, 20 R70). -/
def emit (e : Event) (s : State) : State := { s with trace := s.trace ++ [e] }

/-- `Collab.call`: one collaborator call, recorded (43 R231). -/
def collabCall (c : Collab) (s : State) : State := emit (.collab c) s

/-- `raise Fault(code)`, the one way a fault is taken: `FAULT` is set with its info, nothing is saved, no mode changes
and control goes nowhere (60 R258). -/
def raise (f : FaultRec) (s : State) : State := { s with fault := some f }

/-- The end of a step: its new state, or the state it started from with the fault it raised (60 R258: no other effect
of that step happens). -/
def settle (s : State) (r : Except FaultRec State) : State :=
  match r with
  | .ok t => t
  | .error f => raise f s

/-- The reset event, the only way out of a fault and of a hang: every piece of block state takes its reset value and
the environment stays as it is; reset does not reach the slave (70 R280, R281; log 22). -/
def blockReset (s : State) : State :=
  { State.reset with
    slave := s.slave
    trace := s.trace
    strayPolicy := s.strayPolicy
    program := s.program
    draws := s.draws
    sched := s.sched
    linkFair := s.linkFair }

/-! ### The slave model (20 R74 to R81) -/

/-- The framing the slave requires (20 R81). -/
def requiredWire : WireCfg where
  bitOrder := .msbFirst
  frameWidth := 8
  clockPolarity := .idleHigh
  clockPhase := .secondEdge
  mode := .master
  lineMode := .twoLineUnidirectional

/-- `select`: the slave awaits an address byte (20 R76). -/
def slaveSelect (sl : Slave) : Slave := { sl with phase := .awaitAddr }

/-- `deselect` (20 R76). -/
def slaveDeselect (sl : Slave) : Slave := { sl with phase := .desel }

/-- `readValue` of the slave's instance; `n` is the position of the choice (20 R74, R78, R79). -/
def slaveReadValue (sl : Slave) (a : Addr7) (n : Nat) : Byte :=
  match sl.kind with
  | .echo => Memory.read sl.regs a.toNat
  | .free => Config.draw n
  | .device => Config.deviceRead sl.device a n

/-- `writeValue` of the slave's instance (20 R74, R78, R79). -/
def slaveWriteValue (sl : Slave) (a : Addr7) (v : Byte) : Slave :=
  match sl.kind with
  | .echo => { sl with regs := Memory.write sl.regs a.toNat v }
  | .free => sl
  | .device => { sl with device := Config.deviceWrite sl.device a v }

/-- `SlaveModel.frame`: the slave's decode of one frame and its answer (20 R77, R81). A slave that sees itself
deselected while the line is low, which no run reaches, answers a draw like any slave that is not selected (log 19). -/
def slaveFrame (sl : Slave) (w : WireCfg) (b : Byte) (n : Nat) : Except FaultRec (Slave × Byte) :=
  if w ≠ requiredWire then .error (.framingMismatch w)
  else match sl.phase with
    | .desel => .ok (sl, Config.draw n)
    | .awaitAddr => .ok ({ sl with phase := .awaitData (directionOf b) (addressOf b) }, Config.draw n)
    | .awaitData true a => .ok ({ sl with phase := .done }, slaveReadValue sl a n)
    | .awaitData false a => .ok ({ slaveWriteValue sl a b with phase := .done }, Config.draw n)
    | .done => .error (.slaveOverlong b)

/-- `Link.exchange(b)`: the slave's answer to one frame, or a draw where it is not selected; the event `Xfer`
(20 R75). Each exchange uses up one position of the free Bytes (log 6). -/
def linkExchange (b : Byte) (s : State) : Except FaultRec (Byte × State) :=
  if s.selected then
    match slaveFrame s.slave s.wireCfg b s.draws with
    | .ok (sl, m) => .ok (m, emit (.xfer b m) { s with slave := sl, draws := s.draws + 1 })
    | .error f => .error f
  else .ok (Config.draw s.draws, emit (.xfer b (Config.draw s.draws)) { s with draws := s.draws + 1 })

/-! ### The chip-select drives (41 R161) -/

/-- `csAssert`: `resetPin`, then `CS_N` is 0; the slave is selected if the line was not low (41 R161, 20 R76). -/
def csAssert (s : State) : Except FaultRec State :=
  if s.csDrv then
    .ok (emit .csLow
      { collabCall (.resetPin .csPin) s with
        csN := false
        slave := if s.csN then slaveSelect s.slave else s.slave })
  else .error .csNotDriven

/-- `csDeassert`: `setPin`, then `CS_N` is 1; the slave is deselected if the line was low (41 R161, 20 R76). -/
def csDeassert (s : State) : Except FaultRec State :=
  if s.csDrv then
    .ok (emit .csHigh
      { collabCall (.setPin .csPin) s with
        csN := true
        slave := if s.csN then s.slave else slaveDeselect s.slave })
  else .error .csNotDriven

/-! ### The bodies of the SPIM primitives (40 R121 to R128)

The clock check (40 R120 (4)) holds for every invocation; the checks on `MOP` and `INIT_DONE` are the host's alone. -/

/-- The body of a primitive where the clock of the SPI controller is on, else `ClockOff` (40 R120 (4)). -/
def clocked {α : Type} (op : Op) (s : State) (body : Except FaultRec α) : Except FaultRec α :=
  if s.spiClk then body else .error (.clockOff op)

/-- `configure` (40 R121). -/
def primConfigure (c : Cfg) (s : State) : Except FaultRec State :=
  clocked .configure s <|
    if s.en then .error .configureWhileEnabled else .ok { s with cfg := c, cfgValid := true }

/-- `enable` (40 R122). -/
def primEnable (s : State) : Except FaultRec State :=
  clocked .enable s <|
    if s.cfgValid then .ok { s with en := true } else .error .enableUnconfigured

/-- `disable` (40 R123). -/
def primDisable (s : State) : Except FaultRec State :=
  clocked .disable s <|
    if s.inFlight then .error (.disableInFlight s.txe s.shiftAct s.bsy) else .ok { s with en := false }

/-- A configuration inside the admitted transfer subset (40 R133). -/
def admittedCfg (c : Cfg) : Bool :=
  decide (c.mode = .master) && decide (c.frameWidth = 8) && decide (c.slaveSelect = .softwareHigh)

/-- `write` (40 R127): the Byte goes to `TXBUF`, the event `Tx`. -/
def primWrite (b : Byte) (s : State) : Except FaultRec State :=
  clocked .write s <|
    if !s.en then .error (.notEnabled b)
    else if !admittedCfg s.cfg then .error (.unsupportedMode s.cfg)
    else match s.txBuf with
      | some pending => .error (.txNotReady b pending)
      | none => .ok (emit (.tx b) { s with txBuf := some b })

/-- `read` (40 R128): the Byte in `RXBUF`, which becomes empty, or a draw; the event `Rx`. -/
def primRead (s : State) : Except FaultRec (Byte × State) :=
  clocked .read s <|
    match s.rxBuf with
    | some b => .ok (b, emit (.rx b) { s with rxBuf := none })
    | none => .ok (Config.draw s.draws, emit (.rx (Config.draw s.draws)) { s with draws := s.draws + 1 })

/-- A status query: `RESULT` takes the flag (40 R124 to R126). -/
def primQuery (op : Op) (flag : State → Bool) (s : State) : Except FaultRec State :=
  clocked op s (.ok { s with result := boolResult (flag s) })

end Sys2Proof.Machine
end

