-- ==== Sys2Proof/Machine/Sequencer.lean ====
section
/-! DEFINITION. The sequencer of MTS: the six transitions of a transaction (41 R162 to R167), the eight steps of
`initialize` (43 R230), which transaction an operation starts next (30 R106, 42 R206), and its return (41 R160). -/

namespace Sys2Proof.Machine

/-! ### The six transitions -/

/-- T1: latch direction and address, and the data of a write; assert chip-select (41 R162). -/
def t1 (d : Bool) (a : Addr7) (v : Byte) (s : State) : Except FaultRec State :=
  (csAssert { s with dir := d, addr := a, wdata := if d then s.wdata else v }).map
    fun t => { t with phase := .p2 }

/-- T2: write the address byte (41 R163). -/
def t2 (s : State) : Except FaultRec State :=
  (primWrite (addressByte s.dir s.addr) s).map fun t => { t with phase := .p3 }

/-- T3: read and discard the garbage Byte (41 R164). -/
def t3 (s : State) : Except FaultRec State :=
  (primRead s).map fun r => { r.2 with phase := .p4 }

/-- T4: write the dummy or the data (41 R165). -/
def t4 (s : State) : Except FaultRec State :=
  (primWrite (secondFrame s.dir s.wdata) s).map fun t => { t with phase := .p5 }

/-- T5: capture the received Byte (41 R166). -/
def t5 (s : State) : Except FaultRec State :=
  (primRead s).map fun r => { r.2 with capt := r.1, phase := .p6 }

/-- The first transaction of these operations hands its Byte to `MTMP` (42 R200, R201, R204). -/
def keepsFirstByte (op : Op) : Bool :=
  match op with
  | .setBits => true
  | .setFieldValue => true
  | .getAxisValue => true
  | _ => false

/-- T6: deassert chip-select; the transaction has returned and `MSTAGE` counts it (41 R167, 42 R206). -/
def t6 (op : Op) (s : State) : Except FaultRec State :=
  (csDeassert s).map fun t =>
    { t with
      phase := .idle
      mstage := t.mstage + 1
      mtmp := if keepsFirstByte op && t.mstage == 0 then t.capt else t.mtmp }

/-! ### Expansions (30 R106) -/

/-- Direction, address and data of the transaction an operation starts at its current stage, `none` where all its
transactions are done. -/
def nextTransaction (op : Op) (s : State) : Option (Bool × Addr7 × Byte) :=
  match op with
  | .readRegister => if s.mstage = 0 then some (true, s.maddr, 0) else none
  | .writeRegister => if s.mstage = 0 then some (false, s.maddr, s.mval) else none
  | .setBits =>
    if s.mstage = 0 then some (true, s.maddr, 0)
    else if s.mstage = 1 then some (false, s.maddr, orMask s.mtmp s.mmask)
    else none
  | .setFieldValue =>
    if s.mstage = 0 then some (true, s.maddr, 0)
    else if s.mstage = 1 then some (false, s.maddr, fieldByte s.strayPolicy s.mtmp s.mmask s.mval)
    else none
  | .getBits => if s.mstage = 0 then some (true, s.maddr, 0) else none
  | .getAxisValue =>
    if s.mstage = 0 then some (true, s.maddr, 0)
    else if s.mstage = 1 then some (true, s.maddr + 1, 0)
    else none
  | .getTemperature => if s.mstage = 0 then some (true, s.maddr, 0) else none
  | _ => none

/-- The value an operation returns, `none` where it returns nothing (30 R99, R102). -/
def returnValue (op : Op) (s : State) : Option Word16 :=
  match op with
  | .readRegister => some (zext16 s.capt)
  | .getBits => some (zext16 (andMask s.capt s.mmask))
  | .getAxisValue => some (axisPattern s.capt s.mtmp)
  | .getTemperature => some (zext16 s.capt)
  | _ => none

/-- The return: `RESULT` takes the value of an operation the host issued, `MOP` becomes `None` (41 R160). -/
def returnStep (op : Op) (s : State) : State :=
  { s with
    mop := none
    mstage := 0
    result := if s.hostIssued then (returnValue op s).getD s.result else s.result }

/-! ### The eight steps of `initialize` (43 R230) -/

/-- The configuration of step I6 (43 R232). -/
def initCfg : Cfg where
  mode := .master
  bitOrder := .msbFirst
  frameWidth := 8
  clockPolarity := .idleHigh
  clockPhase := .secondEdge
  baudDivisor := 2
  slaveSelect := .softwareHigh

/-- I1: the clock of the SPI controller. -/
def initClockSpi (s : State) : State := { collabCall (.enableClock .spiInstance) s with spiClk := true }

/-- I2: the clock of the chip-select port. -/
def initClockCs (s : State) : State := { collabCall (.enableClock .csPort) s with csClk := true }

/-- One bus pin of I3: alternate function, push-pull, no pull resistor, medium speed. -/
def initBusPin (pin : Pin) (s : State) : State :=
  collabCall (.configurePinAsAlternateFunction pin .spiAf .pushPull .noPull .medium) s

/-- I3: the three bus pins, in the order SCK, MISO, MOSI. -/
def initPins (s : State) : State :=
  { initBusPin .mosiPin (initBusPin .misoPin (initBusPin .sckPin s)) with pinsAf := true }

/-- I4: the chip-select pin as push-pull output with pull-up. -/
def initCsPin (s : State) : State :=
  { collabCall (.configurePinAsOutput .csPin .pullUp .csPinSpeed .pushPull) s with csDrv := true }

/-- I8: chip-select low, the quirk of 43 R233; the operation has completed. -/
def initSelect (s : State) : Except FaultRec State :=
  (csAssert s).map fun t => { t with initDone := true }

/-- The step of `initialize` that follows `k` completed ones; none follows the eighth (43 R230). No step writes `RXBUF`
or a flag. DESIGN CHOICE (log 37, unsafe): so a Byte that stand-alone use of SPIM left unread (launch premise of 40 R120,
then `disable`, 40 R123) is still in `RXBUF` when `initialize` has returned, and `RXNE` is 1 there. 10 R44 and R46 (d)
say `RXNE = 0` after `initialize`; 43 R230 and 40 R136 give no step that empties `RXBUF`; which holds in this launch is
open. With `EN = 1` step I6 faults (log 24). -/
def initStage (k : Nat) (s : State) : Option (Except FaultRec State) :=
  match k with
  | 0 => some (.ok (initClockSpi s))
  | 1 => some (.ok (initClockCs s))
  | 2 => some (.ok (initPins s))
  | 3 => some (.ok (initCsPin s))
  | 4 => some (csDeassert s)
  | 5 => some (primConfigure initCfg s)
  | 6 => some (primEnable s)
  | 7 => some (initSelect s)
  | _ => none

/-! ### The sequencer's step -/

/-- The step of an operation while `PHASE = Idle`: the next step of `initialize`, the T1 of its next transaction, or
its return. -/
def idleStep (op : Op) (s : State) : State :=
  match op with
  | .initialise =>
    match initStage s.mstage s with
    | some r => settle s (r.map fun t => { t with mstage := s.mstage + 1 })
    | none => returnStep op s
  | _ =>
    match nextTransaction op s with
    | some (d, a, v) => settle s (t1 d a v s)
    | none => returnStep op s

/-- The sequencer's step is enabled: an operation is in progress and its hold, where it has one, is lifted
(41 R163 to R166, R172). -/
def sequencerEnabled (s : State) : Bool :=
  s.fault.isNone && s.mop.isSome &&
    match s.phase with
    | .idle => true
    | .p2 => s.txe
    | .p3 => s.rxne
    | .p4 => s.txe
    | .p5 => s.rxne
    | .p6 => true

/-- The sequencer's step where it is enabled. -/
def sequencerStep (s : State) : State :=
  match s.mop with
  | none => s
  | some op =>
    match s.phase with
    | .idle => idleStep op s
    | .p2 => settle s (t2 s)
    | .p3 => settle s (t3 s)
    | .p4 => settle s (t4 s)
    | .p5 => settle s (t5 s)
    | .p6 => settle s (t6 op s)

end Sys2Proof.Machine
end

