-- ==== Sys2Proof/Machine/Shifter.lean ====
section
/-! DEFINITION. The three steps of the shifter agent (40 R129 to R131), each with the condition that enables it. No step
is enabled while `FAULT` is set (60 R258; for S-DRAIN log 27). -/

namespace Sys2Proof.Machine

/-- The framing of the configuration in force (20 R74, 40 R129). -/
def currentWire (s : State) : WireCfg where
  bitOrder := s.cfg.bitOrder
  frameWidth := s.cfg.frameWidth
  clockPolarity := s.cfg.clockPolarity
  clockPhase := s.cfg.clockPhase
  mode := s.cfg.mode
  lineMode := s.lineMode

/-- S-LOAD is enabled (40 R129). -/
def loadEnabled (s : State) : Bool := s.fault.isNone && s.en && !s.txe && !s.shiftAct

/-- S-LOAD: the frame leaves `TXBUF` (40 R129). -/
def loadStep (s : State) : State :=
  match s.txBuf with
  | some b => { s with shift := b, shiftAct := true, txBuf := none, bsy := true, wireCfg := currentWire s }
  | none => s

/-- S-XFER is enabled (40 R130). -/
def xferEnabled (s : State) : Bool := s.fault.isNone && s.shiftAct

/-- S-XFER: one whole frame is exchanged; the received Byte goes to `RXBUF`. With `RXNE = 1` the exchange has happened
and the step raises `RxOverrun` (40 R130, R132; 60 R258). -/
def xferStep (s : State) : State :=
  match linkExchange s.shift s with
  | .error f => raise f s
  | .ok (m, t) =>
    match t.rxBuf with
    | some unread => raise (.rxOverrun unread m) t
    | none => { t with rxBuf := some m, shiftAct := false }

/-- S-DRAIN is enabled (40 R131). -/
def drainEnabled (s : State) : Bool := s.fault.isNone && s.bsy && !s.shiftAct && s.txe

/-- S-DRAIN: the trailing bus activity ends (40 R131). -/
def drainStep (s : State) : State := { s with bsy := false }

end Sys2Proof.Machine
end

