-- ==== Sys2Proof/Machine/Schedule.lean ====
section
/-! DEFINITION. Which agent moves next (40 R129, R135; log 4, log 5), one step of an agent, and the run of an operation
from its issue to its return under the turns the state holds. -/

namespace Sys2Proof.Machine

/-- The agent of a turn has a step to take. The host's and the reset's turns are the step function's. -/
def agentEnabled (t : Turn) (s : State) : Bool :=
  match t with
  | .host => false
  | .sequencer => sequencerEnabled s
  | .load => loadEnabled s
  | .xfer => xferEnabled s
  | .drain => drainEnabled s
  | .reset => false

/-- The step of an agent: nothing happens where it is not enabled (00 R8, `hold until`). -/
def agentStep (t : Turn) (s : State) : State :=
  if agentEnabled t s then
    match t with
    | .host => s
    | .sequencer => sequencerStep s
    | .load => loadStep s
    | .xfer => xferStep s
    | .drain => drainStep s
    | .reset => s
  else s

/-- An operation is in progress and no fault has ended it. -/
def State.running (s : State) : Bool := s.mop.isSome && s.fault.isNone

/-- The turn is a step of the sequencer or of the shifter. -/
def Turn.isAgent (t : Turn) : Bool :=
  match t with
  | .host => false
  | .sequencer => true
  | .load => true
  | .xfer => true
  | .drain => true
  | .reset => false

/-- Agents step in the order of the turns until the operation has returned or faulted, the turns are used up, or a turn
of the host or of the reset comes. The answer holds the turns not used. -/
def advance : List Turn → State → List Turn × State
  | [], s => ([], s)
  | t :: ts, s => if s.running && t.isAgent then advance ts (agentStep t s) else (t :: ts, s)

/-- One round of every agent. -/
def fairRound : List Turn := [.sequencer, .load, .xfer, .drain]

/-- The turns after those of `sched`: the sequencer always goes on where its hold is lifted; the shifter does so where
the link is fair. Thirty-two rounds are more than any operation takes (log 5). -/
def tailTurns (fair : Bool) : List Turn :=
  if fair then (List.replicate 32 fairRound).flatten else List.replicate 32 .sequencer

/-- The run of an operation that has been issued, to its return, its fault, its hang, or the turn of the host or the
reset that comes first. -/
def runOperation (s : State) : State :=
  let r := advance s.sched s
  match r.1 with
  | [] => { (advance (tailTurns s.linkFair) r.2).2 with sched := [] }
  | t :: ts => { r.2 with sched := t :: ts }

/-- The turn the step function takes where `sched` holds none: an operation in progress goes on; a fair link finishes
what it has begun; then the host issues its next word. `none`: nothing moves (log 4). -/
def defaultTurn (s : State) : Option Turn :=
  if sequencerEnabled s then some .sequencer
  else if s.linkFair && loadEnabled s then some .load
  else if s.linkFair && xferEnabled s then some .xfer
  else if s.linkFair && drainEnabled s then some .drain
  else if s.mop.isNone && s.fault.isNone && !s.program.isEmpty then some .host
  else none

/-- The turn taken and the state without it. -/
def takeTurn (s : State) : Option (Turn × State) :=
  match s.sched with
  | t :: ts => some (t, { s with sched := ts })
  | [] => (defaultTurn s).map fun t => (t, s)

/-- The host's next word and the state without it (70 R298). -/
def takeWord (s : State) : Option (PortWord × State) :=
  match s.program with
  | w :: ws => some (w, { s with program := ws })
  | [] => none

/-- A word stored where the next step fetches it: first among the host's pending words, with the next turn the
host's (log 13). -/
def placeWord (w : PortWord) (s : State) : State :=
  { s with program := w :: s.program, sched := .host :: s.sched }

/-! ### Issuing -/

/-- A primitive the host issues (40 R120): not accepted while `FAULT` is set; refused while an operation is in progress;
refused after `initialize` where the primitive is one of the five of check (3). -/
def primitiveCheck (op : Op) (owned : Bool) (s : State) : Option FaultRec :=
  match s.mop with
  | some running => some (.reentry op running)
  | none => if owned && s.initDone then some (.ownershipViolation op) else none

/-- Issue of a primitive: its checks, then its one step. -/
def issuePrimitive (op : Op) (owned : Bool) (body : State → Except FaultRec State) (s : State) : State :=
  if s.fault.isSome then s
  else match primitiveCheck op owned s with
    | some f => raise f s
    | none => settle s (body s)

/-- The checks of an MTS operation the host issues (41 R160). -/
def operationCheck (op : Op) (s : State) : Option FaultRec :=
  match s.mop with
  | some running => some (.reentry op running)
  | none =>
    match op with
    | .initialise => if s.initDone then some .alreadyInitialised else none
    | _ => if s.initDone then none else some (.notInitialised op)

/-- `MOP` takes the operation, no stage of it is done (41 R160). -/
def startOperation (op : Op) (host : Bool) (s : State) : State :=
  { s with mop := some op, mstage := 0, hostIssued := host }

/-- Issue of an MTS operation: its checks, its operands into the latches, and its run. -/
def issueOperation (op : Op) (latch : State → State) (s : State) : State :=
  if s.fault.isSome then s
  else match operationCheck op s with
    | some f => raise f s
    | none => runOperation (startOperation op true (latch s))

/-- A transaction started by itself, as a wire pattern names it: no lifecycle check and no `RESULT`, as for a
transaction an operation invokes (41 R160; log 11); two transactions never overlap (41 R170). -/
def issueTransaction (op : Op) (latch : State → State) (s : State) : State :=
  if s.fault.isSome then s
  else match s.mop with
    | some running => raise (.reentry op running) s
    | none => runOperation (startOperation op false (latch s))

/-- A command word that matches no operation: `IllegalCommand`, nothing else changes; nothing at all while `FAULT` is
set (30 R101, 60 R257). -/
def illegalWord (w : Word32) (s : State) : State :=
  if s.fault.isSome then s else raise (.illegalCommand w) s

end Sys2Proof.Machine
end

