-- ==== Sys2Proof/Machine/Mts.lean ====
section
/-! DEFINITION. The meanings of the eight MTS operations as the host issues them (41 R160, R168, R169; 42 R200 to R205;
43 R230): the checks, the operands into the latches, and the run of the expansion of 30 R106 under the schedule. -/

namespace Sys2Proof.Machine

/-- `initialize()` (43 R230). -/
def execInitialise (s : State) : Host.Outcome State Fault Refusal :=
  .next (issueOperation .initialise id s)

/-- `readRegister(address) -> byte` (41 R168). -/
def execReadRegister (a : Addr7) (s : State) : Host.Outcome State Fault Refusal :=
  .next (issueOperation .readRegister (fun s => { s with maddr := a }) s)

/-- `writeRegister(address, value)` (41 R169). -/
def execWriteRegister (a : Addr7) (v : Byte) (s : State) : Host.Outcome State Fault Refusal :=
  .next (issueOperation .writeRegister (fun s => { s with maddr := a, mval := v }) s)

/-- `setBits(address, mask)` (42 R200). -/
def execSetBits (a : Addr7) (m : Byte) (s : State) : Host.Outcome State Fault Refusal :=
  .next (issueOperation .setBits (fun s => { s with maddr := a, mmask := m }) s)

/-- The check on stray bits of `setFieldValue`, after those of 41 R160 and before any frame moves (42 R202;
60 R257 (5)). -/
def strayCheck (m v : Byte) (s : State) : Bool :=
  s.fault.isNone && (operationCheck .setFieldValue s).isNone && hasStrayBits m v && decide (s.strayPolicy = .refuse)

/-- `setFieldValue(address, fieldMask, value)` (42 R201, R202). -/
def execSetFieldValue (a : Addr7) (m v : Byte) (s : State) : Host.Outcome State Fault Refusal :=
  if strayCheck m v s then .next (raise (.strayFieldValue m v) s)
  else .next (issueOperation .setFieldValue (fun s => { s with maddr := a, mmask := m, mval := v }) s)

/-- `getBits(address, mask) -> byte` (42 R203). -/
def execGetBits (a : Addr7) (m : Byte) (s : State) : Host.Outcome State Fault Refusal :=
  .next (issueOperation .getBits (fun s => { s with maddr := a, mmask := m }) s)

/-- `getAxisValue(axis) -> int16` (42 R204). -/
def execGetAxisValue (ax : Axis) (s : State) : Host.Outcome State Fault Refusal :=
  .next (issueOperation .getAxisValue (fun s => { s with maddr := axisBase ax }) s)

/-- `getTemperature() -> byte` (42 R205). -/
def execGetTemperature (s : State) : Host.Outcome State Fault Refusal :=
  .next (issueOperation .getTemperature (fun s => { s with maddr := temperatureAddress }) s)

end Sys2Proof.Machine
end

