-- ==== Sys2Proof/Machine/Spim.lean ====
section
/-! DEFINITION. The meanings of the eight SPIM primitives as the host issues them (40 R120 to R128). Each is one step. -/

namespace Sys2Proof.Machine

/-- `configure(...)` (40 R121). -/
def execConfigure (c : Cfg) (s : State) : Host.Outcome State Fault Refusal :=
  .next (issuePrimitive .configure true (primConfigure c) s)

/-- `enable()` (40 R122). -/
def execEnable (s : State) : Host.Outcome State Fault Refusal :=
  .next (issuePrimitive .enable true primEnable s)

/-- `disable()` (40 R123). -/
def execDisable (s : State) : Host.Outcome State Fault Refusal :=
  .next (issuePrimitive .disable true primDisable s)

/-- `transmitReady() -> bool` (40 R124). -/
def execTransmitReady (s : State) : Host.Outcome State Fault Refusal :=
  .next (issuePrimitive .transmitReady false (primQuery .transmitReady State.txe) s)

/-- `receiveReady() -> bool` (40 R125). -/
def execReceiveReady (s : State) : Host.Outcome State Fault Refusal :=
  .next (issuePrimitive .receiveReady false (primQuery .receiveReady State.rxne) s)

/-- `busy() -> bool` (40 R126). -/
def execBusy (s : State) : Host.Outcome State Fault Refusal :=
  .next (issuePrimitive .busy false (primQuery .busy State.bsy) s)

/-- `write(byte)` (40 R127). -/
def execWrite (b : Byte) (s : State) : Host.Outcome State Fault Refusal :=
  .next (issuePrimitive .write true (primWrite b) s)

/-- `read() -> byte`: the Byte goes to `RESULT`, since the host issued it (40 R128). -/
def execRead (s : State) : Host.Outcome State Fault Refusal :=
  .next (issuePrimitive .read true
    (fun s => (primRead s).map fun r => { r.2 with result := zext16 r.1 }) s)

end Sys2Proof.Machine
end

