-- ==== Sys2Proof/Machine/Wire.lean ====
section
/-! DEFINITION. The wire: the meanings of the two `WIRE16` rows (30 R91, R92), the bit-serial picture of one frame that
S-XFER stands for (30 R93), and the durations the spec derives (70 R295, R296). No step reads the last two. -/

namespace Sys2Proof.Machine

/-! ### The wire rows (log 11) -/

/-- `readRegister.wire`: the transaction whose MOSI pattern is `1aaaaaaa 00000000` (30 R92): T1 to T6 with `DIR = 1`. -/
def execReadRegisterWire (a : Addr7) (s : State) : Host.Outcome State Fault Refusal :=
  .next (issueTransaction .readRegister (fun s => { s with maddr := a }) s)

/-- `writeRegister.wire`: the transaction whose MOSI pattern is `0aaaaaaa vvvvvvvv` (30 R92): T1 to T6 with
`DIR = 0`. -/
def execWriteRegisterWire (a : Addr7) (v : Byte) (s : State) : Host.Outcome State Fault Refusal :=
  .next (issueTransaction .writeRegister (fun s => { s with maddr := a, mval := v }) s)

/-! ### One frame, bit by bit (30 R93) -/

/-- What both sides have after some bit times: the bits the master and the slave have sampled so far. -/
structure BitSerial where
  masterSampled : List Bool
  slaveSampled : List Bool
  deriving DecidableEq, Repr

/-- Bit time `k`: the master drives MOSI with bit `7 - k` of its Byte, the slave MISO with bit `7 - k` of its own, and
each samples the other's line on the second clock edge (30 R93). -/
def bitTime (tx answer : Byte) (k : Nat) (b : BitSerial) : BitSerial where
  masterSampled := b.masterSampled ++ [answer.getLsbD (7 - k)]
  slaveSampled := b.slaveSampled ++ [tx.getLsbD (7 - k)]

/-- The eight bit times of a frame, `k` = 0 to 7. -/
def bitTimes (tx answer : Byte) : BitSerial :=
  (List.range 8).foldl (fun b k => bitTime tx answer k b) { masterSampled := [], slaveSampled := [] }

/-- The Byte whose bits, most significant first, are the list's. -/
def byteOfBits (bits : List Bool) : Byte :=
  bits.foldl (fun acc b => (acc <<< 1) ||| (if b then 1 else 0)) 0

/-- The level of `SCK` between frames (30 R93, 10 R21): high for an idle-high clock. -/
def sckIdleLevel : ClockPolarity → Bool
  | .idleLow => false
  | .idleHigh => true

/-! ### Durations (70 R295, R296; log 31, log 36) -/

/-- `f_SCK = F_PCLK / BR` (70 R295). The spec gives neither a type nor a unit of `F_PCLK`: a natural number, with the
quotient rounded down, is a DESIGN CHOICE of the model (log 36). Unsafe: a claim about the number where `BR` does not
divide `F_PCLK` is about the model. No step reads it. -/
def sckFrequency (c : Cfg) : Nat := Config.fPclk / c.baudDivisor

/-- Periods of the peripheral clock in one frame: `8 * BR` (70 R296). -/
def framePeriods (c : Cfg) : Nat := 8 * c.baudDivisor

/-- The least number of periods of the peripheral clock in one transaction: `16 * BR` (70 R296). -/
def transactionPeriods (c : Cfg) : Nat := 2 * framePeriods c

end Sys2Proof.Machine
end

