-- ==== Sys2Proof/Machine/Dispatch.lean ====
section
/-! DEFINITION. The meaning of every instruction: one arm per constructor, each one call. -/

namespace Sys2Proof.Machine

def exec (i : Instr) (s : State) : Host.Outcome State Fault Refusal :=
  match i with
  | .configure cfg => Sys2Proof.Machine.execConfigure cfg s
  | .enable => Sys2Proof.Machine.execEnable s
  | .disable => Sys2Proof.Machine.execDisable s
  | .transmitReady => Sys2Proof.Machine.execTransmitReady s
  | .receiveReady => Sys2Proof.Machine.execReceiveReady s
  | .busy => Sys2Proof.Machine.execBusy s
  | .write byte => Sys2Proof.Machine.execWrite byte s
  | .read => Sys2Proof.Machine.execRead s
  | .initialise => Sys2Proof.Machine.execInitialise s
  | .readRegister address => Sys2Proof.Machine.execReadRegister address s
  | .writeRegister address value => Sys2Proof.Machine.execWriteRegister address value s
  | .setBits address mask => Sys2Proof.Machine.execSetBits address mask s
  | .setFieldValue address fieldMask value => Sys2Proof.Machine.execSetFieldValue address fieldMask value s
  | .getBits address mask => Sys2Proof.Machine.execGetBits address mask s
  | .getAxisValue axis => Sys2Proof.Machine.execGetAxisValue axis s
  | .getTemperature => Sys2Proof.Machine.execGetTemperature s
  | .readRegisterWire address => Sys2Proof.Machine.execReadRegisterWire address s
  | .writeRegisterWire address value => Sys2Proof.Machine.execWriteRegisterWire address value s

end Sys2Proof.Machine
end

