-- ==== Sys2Proof/Machine/Step.lean ====
section
/-! DEFINITION. One step of the machine: the turn that comes (Schedule.lean), taken by the host, by an agent or by the
reset (00 R2, R9). -/

namespace Sys2Proof.Machine

/-- The host presents a word: the instruction it decodes to runs; a command word that decodes to none is
`IllegalCommand` (30 R101); a wire pattern that is no transaction is refused by name (log 12), and like any word is not
accepted while `FAULT` is set (60 R257). -/
def issueWord (w : PortWord) (s : State) : Host.Outcome State Fault Refusal :=
  match decode w with
  | .ok i => exec i s
  | .error _ =>
    match w with
    | .cmd c => .next (illegalWord c s)
    | .wire p => if s.fault.isSome then .next s else .refused (.notATransaction p)

/-- The host's turn; nothing happens where it has no word left. -/
def hostTurn (s : State) : Host.Outcome State Fault Refusal :=
  match takeWord s with
  | some (w, t) => issueWord w t
  | none => .next s

/-- One step. Where nobody can move the state stays as it is: the run has ended (70 R298), has faulted (60 R259) or
hangs (60 R254). -/
def step (s : State) : Host.Outcome State Fault Refusal :=
  match takeTurn s with
  | some (.host, t) => hostTurn t
  | some (.sequencer, t) => .next (agentStep .sequencer t)
  | some (.load, t) => .next (agentStep .load t)
  | some (.xfer, t) => .next (agentStep .xfer t)
  | some (.drain, t) => .next (agentStep .drain t)
  | some (.reset, t) => .next (blockReset t)
  | none => .next s

/-- The state with an instruction of `nbits` bits, whose bits are `w`, where the next step fetches it (log 13). -/
def State.withFetchWord (s : State) (nbits w : Nat) : State :=
  match nbits with
  | 32 => placeWord (.cmd (BitVec.ofNat 32 w)) s
  | 16 => placeWord (.wire (BitVec.ofNat 16 w)) s
  | _ => s

end Sys2Proof.Machine
end

