-- ==== Sys2Proof/Safety.lean ====
section
/-! DEFINITION. The terms of the claims: launch premises (40 R120, R135; 41 R175), the effect of one whole transaction
(41 R168, R169, R171), the invariants (10 R44 to R46, 41 R175), and the end of a run (70 R298). -/

namespace Sys2Proof.Machine

/-! ### Launch premises -/

/-- The host may issue a primitive and its clock is on: none of the checks of 40 R120 applies to a status query. -/
abbrev PrimitiveReady (s : State) : Prop := s.fault = none ∧ s.mop = none ∧ s.spiClk = true

/-- The schedule is all the agents' and the link is fair: `LINK_FAIR`, with no operation issued and no reset while one
is in progress (40 R135; log 4, log 5). -/
abbrev LinkFair (s : State) : Prop := s.linkFair = true ∧ ∀ t ∈ s.sched, t.isAgent = true

/-- The link side of a state in which a transaction can begin: the SPIM enabled under the framing of `initialize`, its
buffers empty, chip-select driven; a slave that is selected already awaits an address (10 R44, R46 (d); 41 R175, R176). -/
abbrev LinkIdle (s : State) : Prop :=
  s.phase = .idle ∧ s.en = true ∧ s.cfg = initCfg ∧ s.spiClk = true ∧ s.csDrv = true ∧ s.txBuf = none ∧
    s.shiftAct = false ∧ s.rxBuf = none ∧ (s.csN = false → s.slave.phase = .awaitAddr)

/-- A state in which the host may issue an MTS operation other than `initialize` (41 R160, R175). -/
abbrev MtsReady (s : State) : Prop := s.fault = none ∧ s.mop = none ∧ s.initDone = true ∧ LinkIdle s

/-- A state in which the host may issue `initialize`, with the SPIM disabled and no frame of an earlier use of it under
way (43 R230). A Byte of that use may be left unread in `RXBUF` (log 37). -/
abbrev InitReady (s : State) : Prop :=
  s.fault = none ∧ s.mop = none ∧ s.initDone = false ∧ s.phase = .idle ∧ s.en = false ∧ s.txBuf = none ∧
    s.shiftAct = false ∧ s.bsy = false

/-! ### One whole transaction -/

/-- The Byte the slave answers to the data frame of a transaction begun in `s` (20 R77): the register's value for a
read, a draw for a write. The address frame has used up one position of the free Bytes. -/
def dataAnswer (d : Bool) (a : Addr7) (s : State) : Byte :=
  if d then slaveReadValue s.slave a (s.draws + 1) else Config.draw (s.draws + 1)

/-- The slave after a transaction: a write has committed, chip-select has deselected it (20 R76, R77). -/
def slaveAfter (d : Bool) (a : Addr7) (v : Byte) (s : State) : Slave :=
  if d then slaveDeselect s.slave else slaveDeselect (slaveWriteValue s.slave a v)

/-- The events of a transaction in order (20 R70, 41 R161, R171). -/
def transactionEvents (d : Bool) (a : Addr7) (v g1 g2 : Byte) : List Event :=
  [.collab (.resetPin .csPin), .csLow,
    .tx (addressByte d a), .xfer (addressByte d a) g1, .rx g1,
    .tx (secondFrame d v), .xfer (secondFrame d v) g2, .rx g2,
    .collab (.setPin .csPin), .csHigh]

/-- The effect of one whole transaction with direction `d`, address `a` and data `v`, `BSY` and the schedule aside. -/
def transacted (d : Bool) (a : Addr7) (v : Byte) (s : State) : State :=
  { s with
    dir := d
    addr := a
    wdata := if d then s.wdata else v
    capt := dataAnswer d a s
    csN := true
    shift := secondFrame d v
    wireCfg := requiredWire
    slave := slaveAfter d a v s
    trace := s.trace ++ transactionEvents d a v (Config.draw s.draws) (dataAnswer d a s)
    draws := s.draws + 2 }

/-- The events of `initialize` in order (43 R230). -/
def initEvents : List Event :=
  [.collab (.enableClock .spiInstance), .collab (.enableClock .csPort),
    .collab (.configurePinAsAlternateFunction .sckPin .spiAf .pushPull .noPull .medium),
    .collab (.configurePinAsAlternateFunction .misoPin .spiAf .pushPull .noPull .medium),
    .collab (.configurePinAsAlternateFunction .mosiPin .spiAf .pushPull .noPull .medium),
    .collab (.configurePinAsOutput .csPin .pullUp .csPinSpeed .pushPull),
    .collab (.setPin .csPin), .csHigh, .collab (.resetPin .csPin), .csLow]

/-! ### Invariants -/

/-- What the steps of `initialize` done so far have set (43 R230, R236). -/
abbrev InitProgress (s : State) : Prop :=
  s.phase = .idle ∧ s.mstage ≤ 8 ∧ (1 ≤ s.mstage → s.spiClk = true) ∧ (2 ≤ s.mstage → s.csClk = true) ∧
    (3 ≤ s.mstage → s.pinsAf = true) ∧ (4 ≤ s.mstage → s.csDrv = true) ∧
    (6 ≤ s.mstage → s.cfg = initCfg ∧ s.cfgValid = true) ∧ (7 ≤ s.mstage → s.en = true)

/-- What `initialize` has set for good (10 R44). -/
abbrev Initialised (s : State) : Prop :=
  s.cfg = initCfg ∧ s.cfgValid = true ∧ s.en = true ∧ s.spiClk = true ∧ s.csClk = true ∧ s.pinsAf = true ∧
    s.csDrv = true

/-- The invariants that hold from any launch state that meets them: chip-select is low throughout a transaction (10 R45);
a frame in `SHIFT` means `BSY` (10 R46 (b)); `EN` means a configuration (40 R122); no operation in progress means `PHASE`
at rest; `initialize` in progress or done has set what it sets; a line that is not driven is kept as 1 (log 18); the
slave's memory is in canonical form. -/
abbrev BlockInv (s : State) : Prop :=
  (s.phase ≠ .idle → s.csDrv = true ∧ s.csN = false) ∧
  (s.shiftAct = true → s.bsy = true) ∧
  (s.en = true → s.cfgValid = true) ∧
  (s.mop = none → s.phase = .idle) ∧
  (s.mop = some .initialise → InitProgress s) ∧
  (s.initDone = true → Initialised s) ∧
  (s.csDrv = false → s.csN = true) ∧
  Memory.wf s.slave.regs = true

/-- Exactly one frame `b` is under way: in `TXBUF`, or in `SHIFT` under the required framing, or exchanged and waiting
in `RXBUF`; the slave's phase is `before` until the exchange and `after` from it on. -/
abbrev OneFrame (b : Byte) (before after : SlavePhase) (s : State) : Prop :=
  (s.txBuf = some b ∧ s.shiftAct = false ∧ s.rxBuf = none ∧ s.slave.phase = before) ∨
  (s.txBuf = none ∧ s.shiftAct = true ∧ s.shift = b ∧ s.wireCfg = requiredWire ∧ s.rxBuf = none ∧
    s.slave.phase = before) ∨
  (s.txBuf = none ∧ s.shiftAct = false ∧ s.rxBuf.isSome = true ∧ s.slave.phase = after)

/-- No frame is under way and the slave's phase is `p`. -/
abbrev NoFrame (p : SlavePhase) (s : State) : Prop :=
  s.txBuf = none ∧ s.shiftAct = false ∧ s.rxBuf = none ∧ s.slave.phase = p

/-- Where the frames of a transaction are at each phase (41 R162 to R167, 20 R76, R77). -/
abbrev FramesAt (s : State) : Prop :=
  match s.phase with
  | .idle => NoFrame (if s.csN then .desel else .awaitAddr) s
  | .p2 => NoFrame .awaitAddr s
  | .p3 => OneFrame (addressByte s.dir s.addr) .awaitAddr (.awaitData s.dir s.addr) s
  | .p4 => NoFrame (.awaitData s.dir s.addr) s
  | .p5 => OneFrame (secondFrame s.dir s.wdata) (.awaitData s.dir s.addr) .done s
  | .p6 => NoFrame .done s

/-- The protocol invariant after `initialize` (41 R175; 10 R44 to R46): the block is set up, `initialize` is not in
progress, chip-select is low through a transaction, and the frames are where the phase says. It has `RXBUF` empty at
rest (10 R46 (d)), which an `initialize` with a Byte left unread does not establish (log 37). -/
abbrev Protocol (s : State) : Prop :=
  s.initDone = true ∧ Initialised s ∧ s.mop ≠ some .initialise ∧ (s.mop = none → s.phase = .idle) ∧
    (s.phase ≠ .idle → s.csN = false) ∧ FramesAt s

/-! ### The order of the phases (10 R32) -/

/-- The phase after a transition: T1 to T6 in order. -/
def nextPhase : Phase → Phase
  | .idle => .p2
  | .p2 => .p3
  | .p3 => .p4
  | .p4 => .p5
  | .p5 => .p6
  | .p6 => .idle

/-! ### The end of a run -/

/-- The run has ended (70 R298): every operation was issued and has returned, no fault, no shifter step enabled. -/
abbrev State.final (s : State) : Prop :=
  s.program = [] ∧ s.mop = none ∧ s.phase = .idle ∧ s.fault = none ∧ s.txe = true ∧ s.shiftAct = false ∧ s.bsy = false

/-- A run is safe as long as no fault is recorded (60 R259). -/
abbrev State.safe (s : State) : Prop := s.fault = none

end Sys2Proof.Machine
end

