-- ==== Sys2Proof/Certificates/Slice0/Obligations.lean ====
section
/-! DEFINITION. The statements for the provers. Each docstring names the rules of spec/ it formalises; where a clause rests
on a choice of the model, the docstring names the log entry. -/

open Sys2Proof Sys2Proof.Machine

/-! ### Encodings -/

/-- 30 R108, R98 to R101, R92: every well-formed instruction is read back from its own word, with every operand at every
value the encoding admits. -/
def Obligations.DecodeOfEncodeIsTheInstruction : Prop :=
  ∀ i : Instr, i.WellFormed → decode (encode i) = .ok i

/-- 30 R108, R92: a word that decodes is the word of what it decodes to, and that is well-formed; so no two words decode
to one instruction and no bit of a legal word is ignored. R108 says so of command words. For wire words it rests on the
two rows of R92 and on log 12 (the model's reading: a read pattern with a non-zero second frame decodes to nothing). -/
def Obligations.EncodeOfDecodeIsTheWord : Prop :=
  ∀ (w : PortWord) (i : Instr), decode w = .ok i → encode i = w ∧ i.WellFormed

/-- 95 section 2.4 (30 R98 to R101): words written out from the spec's tables decode as listed there. -/
def Obligations.ListedWordsDecode : Prop :=
  decodeCmd 0x01000307 = .ok (.configure initCfg) ∧
  decodeCmd 0x010008B8 = .ok (.configure ⟨.slave, .lsbFirst, 16, .idleLow, .firstEdge, 256, .hardware⟩) ∧
  decodeCmd 0x01000107 = .error .reservedSlaveSelect ∧
  decodeCmd 0x01000347 = .error .unusedFieldNotZero ∧
  decodeCmd 0x02000000 = .ok .enable ∧
  decodeCmd 0x070000A0 = .ok (.write 0xA0) ∧
  decodeCmd 0x10000000 = .ok .initialise ∧
  decodeCmd 0x11200000 = .ok (.readRegister 0x20) ∧
  decodeCmd 0x11A00000 = .error .unusedFieldNotZero ∧
  decodeCmd 0x12200055 = .ok (.writeRegister 0x20 0x55) ∧
  decodeCmd 0x1420F060 = .ok (.setFieldValue 0x20 0xF0 0x60) ∧
  decodeCmd 0x16000002 = .ok (.getAxisValue .z) ∧
  decodeCmd 0x16000003 = .error .illegalAxis ∧
  decodeCmd 0x18000000 = .error .unknownOperation ∧
  decodeWire 0xA000 = .ok (.readRegisterWire 0x20) ∧
  decodeWire 0x2055 = .ok (.writeRegisterWire 0x20 0x55)

/-- 30 R90: the address byte is `(DIR << 7) | ADDR`, its fields are read back from it, and all 256 values of it are
address bytes. -/
def Obligations.AddressByteIsDirectionAndAddress : Prop :=
  (∀ (d : Bool) (a : Addr7),
    addressByte d a = (if d then 0x80#8 else 0x00#8) ||| a.setWidth 8 ∧
    (addressByte d a).getLsbD 7 = d ∧ (addressByte d a).extractLsb' 0 7 = a ∧
    directionOf (addressByte d a) = d ∧ addressOf (addressByte d a) = a) ∧
  ∀ b : Byte, addressByte (directionOf b) (addressOf b) = b

/-- 30 R94, R95, R97: the bits of the control image, and the two worked values. -/
def Obligations.ControlImageLayout : Prop :=
  (∀ (c : Cfg) (en : Bool),
    (controlImage c en).getLsbD 0 = decide (c.clockPhase = .secondEdge) ∧
    (controlImage c en).getLsbD 1 = decide (c.clockPolarity = .idleHigh) ∧
    (controlImage c en).getLsbD 2 = decide (c.mode = .master) ∧
    (controlImage c en).extractLsb' 3 3 = BitVec.ofNat 3 (Nat.log2 c.baudDivisor - 1) ∧
    (controlImage c en).getLsbD 6 = en ∧
    (controlImage c en).getLsbD 7 = decide (c.bitOrder = .lsbFirst) ∧
    (controlImage c en).getLsbD 8 = decide (c.slaveSelect = .softwareHigh) ∧
    (controlImage c en).getLsbD 9 = decide (c.slaveSelect ≠ .hardware) ∧
    (controlImage c en).getLsbD 10 = false ∧
    (controlImage c en).getLsbD 11 = decide (c.frameWidth = 16) ∧
    (controlImage c en).extractLsb' 12 4 = 0) ∧
  controlImage initCfg false = 0x0307 ∧ controlImage initCfg true = 0x0347

/-- 30 R96: the bits of the status image; after reset it is 0x0002. -/
def Obligations.StatusImageLayout : Prop :=
  (∀ s : State,
    (statusImage s).getLsbD 0 = s.rxBuf.isSome ∧ (statusImage s).getLsbD 1 = s.txBuf.isNone ∧
    (statusImage s).getLsbD 7 = s.bsy ∧
    ∀ i, i ≠ 0 → i ≠ 1 → i ≠ 7 → (statusImage s).getLsbD i = false) ∧
  statusImage State.reset = 0x0002

/-- 30 R93: eight bit times, most significant bit first, leave each side with the Byte the other sent. -/
def Obligations.BitSerialFrameExchangesTheBytes : Prop :=
  ∀ tx answer : Byte,
    byteOfBits (bitTimes tx answer).masterSampled = answer ∧ byteOfBits (bitTimes tx answer).slaveSampled = tx ∧
    (bitTimes tx answer).masterSampled.length = 8 ∧ (bitTimes tx answer).slaveSampled.length = 8

/-! ### Reset and the step -/

/-- 10 R43: the values R43 gives for reset (what R43 calls 'no value' holds the values of log 2 and is not stated). The
slave's phase is no value of R43, whose row for the slave says that it is an argument: `Desel` is the model's choice of
log 3, after the reference launch state of 70 R281. -/
def Obligations.ResetLeavesTheListedValues : Prop :=
  State.reset.cfgValid = false ∧ State.reset.en = false ∧ State.reset.txe = true ∧ State.reset.shiftAct = false ∧
  State.reset.rxne = false ∧ State.reset.bsy = false ∧ State.reset.phase = .idle ∧ State.reset.csDrv = false ∧
  State.reset.mop = none ∧ State.reset.initDone = false ∧ State.reset.spiClk = false ∧ State.reset.csClk = false ∧
  State.reset.pinsAf = false ∧ State.reset.fault = none ∧ State.reset.slave.phase = .desel ∧
  State.reset.lineMode = .twoLineUnidirectional

/-- The step of the host's turn is `exec` of the instruction the next word decodes to, in the state without the turn and
the word; an agent's turn is that agent's step (00 R2, R9; log 4, log 13). -/
def Obligations.StepRunsTheDecodedInstruction : Prop :=
  (∀ (s : State) (ts : List Turn) (w : PortWord) (ws : List PortWord) (i : Instr),
    s.sched = .host :: ts → s.program = w :: ws → decode w = .ok i →
    step s = exec i { s with sched := ts, program := ws }) ∧
  (∀ (s : State) (w : PortWord) (ws : List PortWord) (i : Instr),
    s.sched = [] → defaultTurn s = some .host → s.program = w :: ws → decode w = .ok i →
    step s = exec i { s with program := ws }) ∧
  ∀ (s : State) (t : Turn) (ts : List Turn),
    s.sched = t :: ts → t.isAgent = true → step s = .next (agentStep t { s with sched := ts })

/-- A placed word is run by the very next step, in the state it was placed in (log 13). -/
def Obligations.PlacedWordRunsNext : Prop :=
  ∀ (s : State) (nbits w : Nat) (i : Instr), decodeTableWord nbits w = some i →
    step (s.withFetchWord nbits w) = exec i s

/-- 30 R101, 60 R257: a command word that matches no operation is recorded as `IllegalCommand` and nothing else of the
state changes but the word the host has presented. -/
def Obligations.IllegalWordIsRecorded : Prop :=
  ∀ (s : State) (ts : List Turn) (w : Word32) (ws : List PortWord) (e : Illegal),
    s.fault = none → s.sched = .host :: ts → s.program = .cmd w :: ws → decodeCmd w = .error e →
    step s = .next { s with sched := ts, program := ws, fault := some (.illegalCommand w) }

/-- 70 R280, R281, 10 R43: a reset turn puts the block at its reset values, clears `FAULT`, and does not reach the
slave. What R43 gives no value takes the value of log 2. By log 22 the trace, the policy, the host's program, the
position of the free Bytes, the turns still to come and the fairness stay, and the model's latches `maddr`, `hostIssued`
and `wireCfg` take their values of `State.reset`. -/
def Obligations.ResetTurnResetsTheBlock : Prop :=
  ∀ (s : State) (ts : List Turn), s.sched = .reset :: ts →
    ∃ t, step s = .next t ∧ t.fault = none ∧ t.mop = none ∧ t.phase = .idle ∧ t.initDone = false ∧ t.en = false ∧
      t.cfgValid = false ∧ t.txBuf = none ∧ t.shiftAct = false ∧ t.rxBuf = none ∧ t.bsy = false ∧ t.csDrv = false ∧
      t.spiClk = false ∧ t.csClk = false ∧ t.pinsAf = false ∧
      t.slave = s.slave ∧ t.trace = s.trace ∧ t.strayPolicy = s.strayPolicy ∧ t.program = s.program ∧
      t.draws = s.draws ∧ t.linkFair = s.linkFair ∧ t.sched = ts ∧
      t.maddr = State.reset.maddr ∧ t.hostIssued = State.reset.hostIssued ∧ t.wireCfg = State.reset.wireCfg ∧
      t.cfg = State.reset.cfg ∧ t.shift = State.reset.shift ∧ t.csN = State.reset.csN ∧ t.dir = State.reset.dir ∧
      t.addr = State.reset.addr ∧ t.wdata = State.reset.wdata ∧ t.capt = State.reset.capt ∧
      t.mstage = State.reset.mstage ∧ t.mmask = State.reset.mmask ∧ t.mval = State.reset.mval ∧
      t.mtmp = State.reset.mtmp ∧ t.result = State.reset.result

/-- 60 R257 (0), R258, R259, 10 R38, 40 R120 (1), 41 R160 (1): once `FAULT` is set no operation is accepted and nothing
happens, and no step but the reset changes anything of the block, the slave or the trace; only the turn and the word
presented are used up (log 23). -/
def Obligations.FaultedBlockStaysAsItIs : Prop :=
  (∀ (i : Instr) (s : State), s.fault ≠ none → exec i s = .next s) ∧
  ∀ (s t : State) (f : FaultRec), s.fault = some f → s.sched.head? ≠ some .reset → step s = .next t →
    t = { s with sched := t.sched, program := t.program }

/-- 70 R298: in a final state no agent moves, whichever turn it is given; and with no turn to come (`sched` is the
model's own, log 4) a step of the machine leaves the state as it is. -/
def Obligations.FinalStateStays : Prop :=
  ∀ s : State, s.final → (∀ t : Turn, agentStep t s = s) ∧ (s.sched = [] → step s = .next s)

/-! ### SPIM primitives -/

/-- 40 R121: with the peripheral disabled `configure` stores its operands, and any operands, and changes nothing else;
with `EN = 1` it is recorded as `ConfigureWhileEnabled` and stores nothing. -/
def Obligations.ConfigureStoresTheConfiguration : Prop :=
  ∀ (s : State) (c : Cfg), PrimitiveReady s → s.initDone = false →
    (s.en = false → exec (.configure c) s = .next { s with cfg := c, cfgValid := true }) ∧
    (s.en = true → exec (.configure c) s = .next { s with fault := some .configureWhileEnabled })

/-- 40 R122: `enable` sets `EN` where a configuration is stored, enabled or not, and changes nothing else; else it raises
`EnableUnconfigured`. -/
def Obligations.EnableSetsTheEnableBit : Prop :=
  ∀ s : State, PrimitiveReady s → s.initDone = false →
    (s.cfgValid = true → exec .enable s = .next { s with en := true }) ∧
    (s.cfgValid = false → exec .enable s = .next { s with fault := some .enableUnconfigured })

/-- 40 R123: `disable` clears `EN` where no transfer is in flight and changes nothing else, `RXBUF` kept; in flight it
raises `DisableInFlight` with the three flags. -/
def Obligations.DisableClearsTheEnableBit : Prop :=
  ∀ s : State, PrimitiveReady s → s.initDone = false →
    (s.txBuf = none → s.shiftAct = false → s.bsy = false → exec .disable s = .next { s with en := false }) ∧
    (s.txBuf ≠ none ∨ s.shiftAct = true ∨ s.bsy = true →
      exec .disable s = .next { s with fault := some (.disableInFlight s.txe s.shiftAct s.bsy) })

/-- 40 R124, 30 R102: `transmitReady` (word 0x04000000) returns `TXE`, valid whether `EN` is 0 or 1 and before or after
`initialize`, and changes nothing else; with `FAULT` set it is not accepted, with an operation in progress it is
`Reentry`, with the clock off `ClockOff`. -/
def Obligations.TransmitReadyReturnsTheFlag : Prop :=
  encode .transmitReady = .cmd 0x04000000 ∧
  ∀ s : State,
    (PrimitiveReady s →
      exec .transmitReady s = .next { s with result := if s.txBuf = none then 0x0001 else 0x0000 }) ∧
    (s.fault ≠ none → exec .transmitReady s = .next s) ∧
    (∀ r, s.fault = none → s.mop = some r →
      exec .transmitReady s = .next { s with fault := some (.reentry .transmitReady r) }) ∧
    (s.fault = none → s.mop = none → s.spiClk = false →
      exec .transmitReady s = .next { s with fault := some (.clockOff .transmitReady) })

/-- 40 R125, 30 R102: `receiveReady` (word 0x05000000) returns `RXNE` and changes no other state; with `FAULT` set it is
not accepted, with an operation in progress it is `Reentry`, with the clock off `ClockOff`. -/
def Obligations.ReceiveReadyReturnsTheFlag : Prop :=
  encode .receiveReady = .cmd 0x05000000 ∧
  ∀ s : State,
    (PrimitiveReady s →
      exec .receiveReady s = .next { s with result := if s.rxBuf = none then 0x0000 else 0x0001 }) ∧
    (s.fault ≠ none → exec .receiveReady s = .next s) ∧
    (∀ r, s.fault = none → s.mop = some r →
      exec .receiveReady s = .next { s with fault := some (.reentry .receiveReady r) }) ∧
    (s.fault = none → s.mop = none → s.spiClk = false →
      exec .receiveReady s = .next { s with fault := some (.clockOff .receiveReady) })

/-- 40 R126, 30 R102: `busy` (word 0x06000000) returns `BSY`, whatever the other two flags are, and changes no other
state; with `FAULT` set it is not accepted, with an operation in progress it is `Reentry`, with the clock off
`ClockOff`. -/
def Obligations.BusyReturnsTheFlag : Prop :=
  encode .busy = .cmd 0x06000000 ∧
  ∀ s : State,
    (PrimitiveReady s → exec .busy s = .next { s with result := if s.bsy = true then 0x0001 else 0x0000 }) ∧
    (s.fault ≠ none → exec .busy s = .next s) ∧
    (∀ r, s.fault = none → s.mop = some r → exec .busy s = .next { s with fault := some (.reentry .busy r) }) ∧
    (s.fault = none → s.mop = none → s.spiClk = false →
      exec .busy s = .next { s with fault := some (.clockOff .busy) })

/-- 40 R127, R133: `write` fills `TXBUF` with its Byte and records `Tx`, and changes nothing else; the other four fields
of the configuration do not restrict it. -/
def Obligations.WriteFillsTheTransmitBuffer : Prop :=
  ∀ (s : State) (b : Byte), PrimitiveReady s → s.initDone = false → s.en = true → s.cfg.mode = .master →
    s.cfg.frameWidth = 8 → s.cfg.slaveSelect = .softwareHigh → s.txBuf = none →
    exec (.write b) s = .next { s with txBuf := some b, trace := s.trace ++ [.tx b] }

/-- 40 R127, R133, 60 R257: the checks of `write` in their order, each leaving everything but `FAULT` as it was. -/
def Obligations.WriteChecksInOrder : Prop :=
  ∀ (s : State) (b : Byte), PrimitiveReady s → s.initDone = false →
    (s.en = false → exec (.write b) s = .next { s with fault := some (.notEnabled b) }) ∧
    (s.en = true → (s.cfg.mode ≠ .master ∨ s.cfg.frameWidth ≠ 8 ∨ s.cfg.slaveSelect ≠ .softwareHigh) →
      exec (.write b) s = .next { s with fault := some (.unsupportedMode s.cfg) }) ∧
    (s.en = true → s.cfg.mode = .master → s.cfg.frameWidth = 8 → s.cfg.slaveSelect = .softwareHigh →
      ∀ p, s.txBuf = some p → exec (.write b) s = .next { s with fault := some (.txNotReady b p) })

/-- 40 R128, 30 R102: `read` with `RXNE = 1` returns the Byte in `RXBUF` and empties it; with `RXNE = 0` it returns a
free Byte and leaves the block as it was, no fault; either way `Rx` is recorded and nothing else changes (the position
of the free Bytes is the model's own, log 6). -/
def Obligations.ReadReturnsTheReceivedByte : Prop :=
  ∀ s : State, PrimitiveReady s → s.initDone = false →
    (∀ b, s.rxBuf = some b →
      exec .read s = .next { s with rxBuf := none, result := b.setWidth 16, trace := s.trace ++ [.rx b] }) ∧
    (s.rxBuf = none →
      exec .read s = .next
        { s with
          result := (Config.draw s.draws).setWidth 16
          trace := s.trace ++ [.rx (Config.draw s.draws)]
          draws := s.draws + 1 })

/-- 40 R120, 60 R257: the common checks of the primitives in their order: `Reentry` for all eight; `OwnershipViolation`
for the five that are not status queries; `ClockOff` for all eight. Each changes `FAULT` alone. -/
def Obligations.PrimitiveChecksInOrder : Prop :=
  ∀ (s : State) (i : Instr) (op : Op) (owned : Bool),
    (i, op, owned) ∈ [(Instr.enable, Op.enable, true), (.disable, .disable, true), (.read, .read, true),
        (.transmitReady, .transmitReady, false), (.receiveReady, .receiveReady, false), (.busy, .busy, false)] ∨
      (∃ c, (i, op, owned) = (Instr.configure c, Op.configure, true)) ∨
      (∃ b, (i, op, owned) = (Instr.write b, Op.write, true)) →
    s.fault = none →
    (∀ r, s.mop = some r → exec i s = .next { s with fault := some (.reentry op r) }) ∧
    (s.mop = none → owned = true → s.initDone = true →
      exec i s = .next { s with fault := some (.ownershipViolation op) }) ∧
    (s.mop = none → (owned = true → s.initDone = false) → s.spiClk = false →
      exec i s = .next { s with fault := some (.clockOff op) })

/-- 40 R136: no primitive changes chip-select, `PHASE`, an MTS latch or the slave, and none but `write` and `read`
changes `TXBUF`, `RXBUF` or `BSY`. -/
def Obligations.PrimitivesLeaveTheSequencerAlone : Prop :=
  ∀ (s t : State) (i : Instr),
    (i ∈ [Instr.enable, .disable, .transmitReady, .receiveReady, .busy, .read] ∨ (∃ c, i = .configure c) ∨
      ∃ b, i = .write b) →
    exec i s = .next t →
    t.csN = s.csN ∧ t.csDrv = s.csDrv ∧ t.phase = s.phase ∧ t.dir = s.dir ∧ t.addr = s.addr ∧ t.wdata = s.wdata ∧
    t.capt = s.capt ∧ t.mop = s.mop ∧ t.mstage = s.mstage ∧ t.mmask = s.mmask ∧ t.mval = s.mval ∧ t.mtmp = s.mtmp ∧
    t.maddr = s.maddr ∧ t.initDone = s.initDone ∧ t.slave = s.slave ∧ t.bsy = s.bsy ∧ t.shift = s.shift ∧
    t.shiftAct = s.shiftAct ∧
    ((∀ b, i ≠ .write b) → t.txBuf = s.txBuf) ∧ (i ≠ .read → t.rxBuf = s.rxBuf)

/-! ### The shifter, the link and the slave -/

/-- 40 R129: S-LOAD, where enabled, moves the Byte from `TXBUF` to `SHIFT`, sets `BSY` and latches the framing in force;
where it is not enabled nothing happens. -/
def Obligations.LoadMovesTheByteToTheShifter : Prop :=
  ∀ s : State,
    (∀ b, s.fault = none → s.en = true → s.txBuf = some b → s.shiftAct = false →
      agentStep .load s =
        { s with
          shift := b, shiftAct := true, txBuf := none, bsy := true
          wireCfg := ⟨s.cfg.bitOrder, s.cfg.frameWidth, s.cfg.clockPolarity, s.cfg.clockPhase, s.cfg.mode,
            .twoLineUnidirectional⟩ }) ∧
    (s.fault ≠ none ∨ s.en = false ∨ s.txBuf = none ∨ s.shiftAct = true → agentStep .load s = s)

/-- 40 R130, R132, 60 R258: S-XFER exchanges the frame in `SHIFT`. If the link refuses it, only `FAULT` changes. If the
exchange happens and `RXBUF` is empty, it takes the answer and `SHIFT_ACT` falls; if `RXBUF` is full, the exchange stays
done and `RxOverrun` is recorded. Where S-XFER is not enabled nothing happens. -/
def Obligations.TransferExchangesOneFrame : Prop :=
  ∀ s : State,
    (s.fault = none → s.shiftAct = true →
      (∀ f, linkExchange s.shift s = .error f → agentStep .xfer s = { s with fault := some f }) ∧
      (∀ m t, linkExchange s.shift s = .ok (m, t) → s.rxBuf = none →
        agentStep .xfer s = { t with rxBuf := some m, shiftAct := false }) ∧
      (∀ m t u, linkExchange s.shift s = .ok (m, t) → s.rxBuf = some u →
        agentStep .xfer s = { t with fault := some (.rxOverrun u m) })) ∧
    (s.fault ≠ none ∨ s.shiftAct = false → agentStep .xfer s = s)

/-- 20 R75, R77, R81, R74, R78, R79: the answer to a frame. With the line not at 0 the slave is untouched and the answer is free. With
the line at 0: another framing than the required one is `FramingMismatch`; an address byte is latched and answered
freely; the data frame of a read is answered with the register's value; the data frame of a write is stored and answered
freely; a third frame is `SlaveOverlong`. The register's value and the store are those of the slave's instance:
`EchoSlave` is plain storage; under `FreeSlave` a read is answered with a draw and a write leaves the slave as it was
(log 35); the open device's are the open constants of Config, over its state coded by a number (log 7). (One position of
the free Bytes is used up by an exchange: log 6.) -/
def Obligations.LinkExchangeAnswers : Prop :=
  ∀ (s : State) (b : Byte),
    ((s.csDrv = false ∨ s.csN = true) →
      linkExchange b s = .ok (Config.draw s.draws,
        { s with draws := s.draws + 1, trace := s.trace ++ [.xfer b (Config.draw s.draws)] })) ∧
    (s.csDrv = true → s.csN = false →
      (s.wireCfg ≠ requiredWire → linkExchange b s = .error (.framingMismatch s.wireCfg)) ∧
      (s.wireCfg = requiredWire →
        (s.slave.phase = .awaitAddr →
          linkExchange b s = .ok (Config.draw s.draws,
            { s with
              slave := { s.slave with phase := .awaitData (b.getLsbD 7) (b.extractLsb' 0 7) }
              draws := s.draws + 1, trace := s.trace ++ [.xfer b (Config.draw s.draws)] })) ∧
        (∀ a, s.slave.phase = .awaitData true a →
          linkExchange b s = .ok (slaveReadValue s.slave a s.draws,
            { s with
              slave := { s.slave with phase := .done }
              draws := s.draws + 1, trace := s.trace ++ [.xfer b (slaveReadValue s.slave a s.draws)] })) ∧
        (∀ a, s.slave.phase = .awaitData false a →
          linkExchange b s = .ok (Config.draw s.draws,
            { s with
              slave := { slaveWriteValue s.slave a b with phase := .done }
              draws := s.draws + 1, trace := s.trace ++ [.xfer b (Config.draw s.draws)] })) ∧
        (∀ d a, s.slave.phase = .awaitData d a → s.slave.kind = .free →
          linkExchange b s = .ok (Config.draw s.draws,
            { s with
              slave := { s.slave with phase := .done }
              draws := s.draws + 1, trace := s.trace ++ [.xfer b (Config.draw s.draws)] })) ∧
        (s.slave.phase = .done → linkExchange b s = .error (.slaveOverlong b)))) ∧
    ∀ (a : Addr7) (n : Nat) (v : Byte),
      (s.slave.kind = .echo →
        slaveReadValue s.slave a n = Memory.read s.slave.regs a.toNat ∧
        slaveWriteValue s.slave a v = { s.slave with regs := Memory.write s.slave.regs a.toNat v }) ∧
      (s.slave.kind = .free →
        slaveReadValue s.slave a n = Config.draw n ∧ slaveWriteValue s.slave a v = s.slave) ∧
      (s.slave.kind = .device →
        slaveReadValue s.slave a n = Config.deviceRead s.slave.device a n ∧
        slaveWriteValue s.slave a v = { s.slave with device := Config.deviceWrite s.slave.device a v })

/-- 40 R131, 60 R258: S-DRAIN, where enabled, clears `BSY` and nothing else; where it is not enabled nothing happens. -/
def Obligations.DrainClearsBusy : Prop :=
  ∀ s : State,
    (s.fault = none → s.bsy = true → s.shiftAct = false → s.txBuf = none →
      agentStep .drain s = { s with bsy := false }) ∧
    (s.fault ≠ none ∨ s.bsy = false ∨ s.shiftAct = true ∨ s.txBuf ≠ none → agentStep .drain s = s)

/-! ### The sequencer -/

/-- 41 R161, 20 R76: the chip-select drives. Each records its collaborator call and its event; the slave is selected or
deselected only where the level changes; with the pin not an output each is `CsNotDriven`. -/
def Obligations.ChipSelectDrives : Prop :=
  ∀ s : State,
    (s.csDrv = true →
      csAssert s = .ok
        { s with
          csN := false
          trace := s.trace ++ [.collab (.resetPin .csPin), .csLow]
          slave := if s.csN = true then { s.slave with phase := .awaitAddr } else s.slave } ∧
      csDeassert s = .ok
        { s with
          csN := true
          trace := s.trace ++ [.collab (.setPin .csPin), .csHigh]
          slave := if s.csN = true then s.slave else { s.slave with phase := .desel } }) ∧
    (s.csDrv = false → csAssert s = .error .csNotDriven ∧ csDeassert s = .error .csNotDriven)

/-- 41 R162, R161: T1, with an operation's next transaction of direction `d`, address `a` and data `v`, latches them (a
read leaves `WDATA` as it was), drives chip-select low and goes to P2; 41 R167: T6 drives it high and goes to Idle. The
count of transactions is `MSTAGE` (10 R35, log 15); the Byte kept for the second transaction is `MTMP` (10 R35, 42 R200,
R201, R204). -/
def Obligations.TransactionBeginsAndEnds : Prop :=
  ∀ (s : State) (op : Op), s.fault = none → s.mop = some op → op ≠ .initialise → s.csDrv = true →
    (∀ d a v, s.phase = .idle → nextTransaction op s = some (d, a, v) →
      agentStep .sequencer s =
        { s with
          dir := d, addr := a, wdata := if d = true then s.wdata else v, csN := false, phase := .p2
          trace := s.trace ++ [.collab (.resetPin .csPin), .csLow]
          slave := if s.csN = true then { s.slave with phase := .awaitAddr } else s.slave }) ∧
    (s.phase = .p6 →
      agentStep .sequencer s =
        { s with
          csN := true, phase := .idle, mstage := s.mstage + 1
          mtmp := if keepsFirstByte op = true ∧ s.mstage = 0 then s.capt else s.mtmp
          trace := s.trace ++ [.collab (.setPin .csPin), .csHigh]
          slave := if s.csN = true then s.slave else { s.slave with phase := .desel } })

/-- 41 R163: T2 is held while `TXE = 0`; with `TXE = 1` it writes the address byte, direction in bit 7, and goes to P3,
and nothing else changes. -/
def Obligations.AddressByteIsWrittenAtPhase2 : Prop :=
  ∀ (s : State) (op : Op), s.fault = none → s.mop = some op → s.phase = .p2 → Initialised s →
    (s.txBuf ≠ none → agentStep .sequencer s = s) ∧
    (s.txBuf = none →
      agentStep .sequencer s =
        { s with
          txBuf := some (addressByte s.dir s.addr), phase := .p3
          trace := s.trace ++ [.tx (addressByte s.dir s.addr)] })

/-- 41 R164: T3 is held while `RXNE = 0`; with `RXNE = 1` it reads the Byte, which goes nowhere, and goes to P4. -/
def Obligations.GarbageByteIsDiscardedAtPhase3 : Prop :=
  ∀ (s : State) (op : Op), s.fault = none → s.mop = some op → s.phase = .p3 → s.spiClk = true →
    (s.rxBuf = none → agentStep .sequencer s = s) ∧
    (∀ g, s.rxBuf = some g →
      agentStep .sequencer s = { s with rxBuf := none, phase := .p4, trace := s.trace ++ [.rx g] })

/-- 41 R165: T4 is held while `TXE = 0`; with `TXE = 1` it writes the dummy 0x00 of a read or the data of a write, and
goes to P5. -/
def Obligations.SecondFrameIsWrittenAtPhase4 : Prop :=
  ∀ (s : State) (op : Op), s.fault = none → s.mop = some op → s.phase = .p4 → Initialised s →
    (s.txBuf ≠ none → agentStep .sequencer s = s) ∧
    (s.txBuf = none →
      agentStep .sequencer s =
        { s with
          txBuf := some (if s.dir = true then 0x00 else s.wdata), phase := .p5
          trace := s.trace ++ [.tx (if s.dir = true then 0x00 else s.wdata)] })

/-- 41 R166: T5 is held while `RXNE = 0`; with `RXNE = 1` it captures the Byte, in both directions, and goes to P6. -/
def Obligations.ReceivedByteIsCapturedAtPhase5 : Prop :=
  ∀ (s : State) (op : Op), s.fault = none → s.mop = some op → s.phase = .p5 → s.spiClk = true →
    (s.rxBuf = none → agentStep .sequencer s = s) ∧
    (∀ g, s.rxBuf = some g →
      agentStep .sequencer s = { s with rxBuf := none, capt := g, phase := .p6, trace := s.trace ++ [.rx g] })

/-- 10 R32: `PHASE` never skips and never goes back: a step of an agent leaves it or moves it to the next of Idle, P2 to
P6, Idle. -/
def Obligations.PhasesAdvanceInOrder : Prop :=
  ∀ (t : Turn) (s : State), (agentStep t s).phase = s.phase ∨ (agentStep t s).phase = nextPhase s.phase

/-! ### MTS operations -/

/-- 41 R160, 42 R202, 60 R257: the checks of the MTS operations in their order: `Reentry`; `NotInitialised` for the
seven, and `AlreadyInitialised` for `initialize`; then, for `setFieldValue` under the policy `Refuse`, a stray bit in
the value is `StrayFieldValue` before any frame moves. Each changes `FAULT` alone. -/
def Obligations.OperationChecksInOrder : Prop :=
  (∀ (s : State) (i : Instr) (op : Op),
    ((i, op) = (Instr.initialise, Op.initialise) ∨ (i, op) = (Instr.getTemperature, Op.getTemperature) ∨
      (∃ a, (i, op) = (Instr.readRegister a, Op.readRegister)) ∨
      (∃ a v, (i, op) = (Instr.writeRegister a v, Op.writeRegister)) ∨
      (∃ a m, (i, op) = (Instr.setBits a m, Op.setBits)) ∨
      (∃ a m v, (i, op) = (Instr.setFieldValue a m v, Op.setFieldValue)) ∨
      (∃ a m, (i, op) = (Instr.getBits a m, Op.getBits)) ∨
      ∃ ax, (i, op) = (Instr.getAxisValue ax, Op.getAxisValue)) →
    s.fault = none →
    (∀ r, s.mop = some r → exec i s = .next { s with fault := some (.reentry op r) }) ∧
    (s.mop = none → op ≠ .initialise → s.initDone = false →
      exec i s = .next { s with fault := some (.notInitialised op) }) ∧
    (s.mop = none → op = .initialise → s.initDone = true →
      exec i s = .next { s with fault := some .alreadyInitialised })) ∧
  ∀ (s : State) (a : Addr7) (m v : Byte), s.fault = none → s.mop = none → s.initDone = true →
    s.strayPolicy = .refuse → v &&& ~~~m ≠ 0 →
    exec (.setFieldValue a m v) s = .next { s with fault := some (.strayFieldValue m v) }

/-- 43 R230, R232, R233, 10 R44: `initialize` runs its eight steps under every schedule of the agents, fair or not: it
enables the clocks, configures the pins, sets the configuration, enables SPIM and leaves chip-select low with the slave
selected; it moves no frame, and nothing else changes. With `RXBUF` empty at the start, as after reset, that is the
state 10 R44 lists (its `RXNE = 0`); that a Byte left unread there by stand-alone use of SPIM stays is the model's choice
(log 37). (`hostIssued` and `mstage` at rest: log 14, log 15.) -/
def Obligations.InitialiseCompletes : Prop :=
  ∀ s : State, InitReady s → (∀ t ∈ s.sched, t.isAgent = true) →
    ∃ ts, ts <:+ s.sched ∧
      exec .initialise s = .next
        { s with
          spiClk := true, csClk := true, pinsAf := true, csDrv := true, csN := false
          cfg := initCfg, cfgValid := true, en := true, initDone := true
          slave := { s.slave with phase := .awaitAddr }
          trace := s.trace ++ initEvents
          mstage := 0, hostIssued := true, sched := ts }

/-- 10 R44, 43 R230, 41 R175: `initialize` from reset leaves the state R44 lists, with `CR = 0x0347` and the trace of
R230, and the protocol invariant holds in it. -/
def Obligations.InitialiseFromReset : Prop :=
  ∃ t, exec .initialise State.reset = .next t ∧ t.cfg = initCfg ∧ t.cfgValid = true ∧ t.en = true ∧ t.csDrv = true ∧
    t.csN = false ∧ t.spiClk = true ∧ t.csClk = true ∧ t.pinsAf = true ∧ t.initDone = true ∧ t.phase = .idle ∧
    t.txe = true ∧ t.rxne = false ∧ t.bsy = false ∧ t.fault = none ∧ t.mop = none ∧ controlRegister t = 0x0347 ∧
    t.trace = initEvents ∧ t.slave.phase = .awaitAddr ∧ Protocol t

/-- 41 R168, R171, R160, 30 R102: with a fair link and under every schedule of the agents, `readRegister` runs one whole
transaction with the read bit set and returns the captured Byte; `BSY` may be left at either value, and nothing else
changes (`transacted` names what a transaction changes; `maddr`, `hostIssued`: log 14; the schedule and the fairness as
data: log 4, log 5). -/
def Obligations.ReadRegisterCompletes : Prop :=
  ∀ (s : State) (a : Addr7), MtsReady s → LinkFair s →
    ∃ b ts, ts <:+ s.sched ∧
      exec (.readRegister a) s = .next
        { transacted true a 0 s with
          result := (dataAnswer true a s).setWidth 16
          maddr := a, hostIssued := true, mstage := 0, bsy := b, sched := ts }

/-- 41 R169, R171, R160: `writeRegister` runs one whole transaction with the read bit clear and the value as second Byte;
`RESULT` is not written (log 4, log 5, log 14 as for `readRegister`). -/
def Obligations.WriteRegisterCompletes : Prop :=
  ∀ (s : State) (a : Addr7) (v : Byte), MtsReady s → LinkFair s →
    ∃ b ts, ts <:+ s.sched ∧
      exec (.writeRegister a v) s = .next
        { transacted false a v s with
          maddr := a, mval := v, hostIssued := true, mstage := 0, bsy := b, sched := ts }

/-- 42 R200, R206: `setBits` reads the register, and writes back the Byte read with the mask ORed in, in two whole
transactions; `RESULT` is not written (log 4, log 5, log 14). -/
def Obligations.SetBitsCompletes : Prop :=
  ∀ (s : State) (a : Addr7) (m : Byte), MtsReady s → LinkFair s →
    ∃ b ts, ts <:+ s.sched ∧
      exec (.setBits a m) s = .next
        { transacted false a (dataAnswer true a s ||| m) (transacted true a 0 s) with
          mtmp := dataAnswer true a s
          maddr := a, mmask := m, hostIssued := true, mstage := 0, bsy := b, sched := ts }

/-- 42 R201, R202, R206: `setFieldValue` reads the register, clears the field, ORs in the value (masked under the policy
`Masked`), and writes back, in two whole transactions, wherever the policy does not refuse the value (log 4, log 5,
log 10, log 14). -/
def Obligations.SetFieldValueCompletes : Prop :=
  ∀ (s : State) (a : Addr7) (m v : Byte), MtsReady s → LinkFair s →
    (s.strayPolicy = .refuse → v &&& ~~~m = 0) →
    ∃ b ts, ts <:+ s.sched ∧
      exec (.setFieldValue a m v) s = .next
        { transacted false a
            ((dataAnswer true a s &&& ~~~m) ||| (if s.strayPolicy = .masked then v &&& m else v))
            (transacted true a 0 s) with
          mtmp := dataAnswer true a s
          maddr := a, mmask := m, mval := v, hostIssued := true, mstage := 0, bsy := b, sched := ts }

/-- 42 R203, 30 R102: `getBits` runs one read transaction and returns the Byte ANDed with the mask, not shifted
(log 4, log 5, log 14). -/
def Obligations.GetBitsCompletes : Prop :=
  ∀ (s : State) (a : Addr7) (m : Byte), MtsReady s → LinkFair s →
    ∃ b ts, ts <:+ s.sched ∧
      exec (.getBits a m) s = .next
        { transacted true a 0 s with
          result := (dataAnswer true a s &&& m).setWidth 16
          maddr := a, mmask := m, hostIssued := true, mstage := 0, bsy := b, sched := ts }

/-- 42 R204, 20 R63: `getAxisValue` reads the low Byte at the axis' base address, then the high Byte at the address one
above, and returns `(high << 8) | low` (log 4, log 5, log 14). -/
def Obligations.GetAxisValueCompletes : Prop :=
  ∀ (s : State) (ax : Axis) (base : Addr7), (ax, base) ∈ [(Axis.x, 0x28#7), (Axis.y, 0x2A#7), (Axis.z, 0x2C#7)] →
    MtsReady s → LinkFair s →
    ∃ b ts, ts <:+ s.sched ∧
      exec (.getAxisValue ax) s = .next
        { transacted true (base + 1) 0 (transacted true base 0 s) with
          result :=
            ((dataAnswer true (base + 1) (transacted true base 0 s)).setWidth 16 <<< 8) |||
              (dataAnswer true base s).setWidth 16
          mtmp := dataAnswer true base s
          maddr := base, hostIssued := true, mstage := 0, bsy := b, sched := ts }

/-- 42 R205: `getTemperature` runs one read transaction on register 0x0C and returns the raw Byte (log 4, log 5,
log 14). -/
def Obligations.GetTemperatureCompletes : Prop :=
  ∀ s : State, MtsReady s → LinkFair s →
    ∃ b ts, ts <:+ s.sched ∧
      exec .getTemperature s = .next
        { transacted true 0x0C 0 s with
          result := (dataAnswer true 0x0C s).setWidth 16
          maddr := 0x0C, hostIssued := true, mstage := 0, bsy := b, sched := ts }

/-- 30 R91, R92: a wire pattern runs the transaction whose two MOSI frames it is: the events are the two frames under one
chip-select assertion, the answers `{G1, G2}`; no lifecycle check and no `RESULT` (log 11; log 4, log 5, log 14). -/
def Obligations.WireTransactionsComplete : Prop :=
  ∀ (s : State) (a : Addr7) (v : Byte), s.fault = none → s.mop = none → LinkIdle s → LinkFair s →
    (∃ b ts, ts <:+ s.sched ∧
      exec (.readRegisterWire a) s = .next
        { transacted true a 0 s with maddr := a, hostIssued := false, mstage := 0, bsy := b, sched := ts }) ∧
    (∃ b ts, ts <:+ s.sched ∧
      exec (.writeRegisterWire a v) s = .next
        { transacted false a v s with
          maddr := a, mval := v, hostIssued := false, mstage := 0, bsy := b, sched := ts })

/-- A wire pattern run by itself (log 11) is not started while an operation is in progress: `Reentry` (41 R170). With the
chip-select pin not yet an output it is `CsNotDriven` at T1 (41 R161), with no frame moved: under the default order of
log 4 where no turn is to come, and under every schedule of the agents where no frame is in `TXBUF` or `SHIFT` (a frame
left there could be exchanged before T1). -/
def Obligations.WireTransactionsFault : Prop :=
  ∀ (s : State) (a : Addr7) (v : Byte), s.fault = none →
    (∀ r, s.mop = some r →
      exec (.readRegisterWire a) s = .next { s with fault := some (.reentry .readRegister r) } ∧
      exec (.writeRegisterWire a v) s = .next { s with fault := some (.reentry .writeRegister r) }) ∧
    (s.mop = none → s.phase = .idle → s.csDrv = false →
      (s.sched = [] ∨ ((∀ t ∈ s.sched, t.isAgent = true) ∧ s.txBuf = none ∧ s.shiftAct = false)) →
      (∃ t, exec (.readRegisterWire a) s = .next t ∧ t.fault = some .csNotDriven ∧ t.trace = s.trace ∧
        t.slave = s.slave) ∧
      ∃ t, exec (.writeRegisterWire a v) s = .next t ∧ t.fault = some .csNotDriven ∧ t.trace = s.trace ∧
        t.slave = s.slave)

/-- 30 R102, 41 R160: an operation that returns nothing leaves `RESULT` as it was, whatever the state, the schedule and
the slave; so does a wire pattern (log 11). -/
def Obligations.OnlyValueOperationsWriteResult : Prop :=
  ∀ (s t : State) (i : Instr),
    (i ∈ [Instr.enable, .disable, .initialise] ∨ (∃ c, i = .configure c) ∨ (∃ b, i = .write b) ∨
      (∃ a v, i = .writeRegister a v) ∨ (∃ a m, i = .setBits a m) ∨ (∃ a m v, i = .setFieldValue a m v) ∨
      (∃ a, i = .readRegisterWire a) ∨ ∃ a v, i = .writeRegisterWire a v) →
    exec i s = .next t → t.result = s.result

/-! ### The slave's registers (`EchoSlave`) -/

/-- 41 R174, 20 R78: with `EchoSlave` and a fair link, a write followed by a read of the same register returns the Byte
written. -/
def Obligations.WriteThenReadReturnsTheByte : Prop :=
  ∀ (s : State) (a : Addr7) (v : Byte), MtsReady s → LinkFair s → s.slave.kind = .echo →
    Memory.wf s.slave.regs = true →
    ∃ t u, exec (.writeRegister a v) s = .next t ∧ exec (.readRegister a) t = .next u ∧
      u.result = v.setWidth 16 ∧ u.fault = none

/-- 41 R169, 20 R78: with `EchoSlave` and a fair link, `writeRegister` stores its Byte at its address, and every other
register of the slave reads as before. So does the wire pattern of a write (30 R92) run by itself, which is the model's
choice (log 11). -/
def Obligations.WriteRegisterStoresOneByte : Prop :=
  ∀ (s t : State) (a : Addr7) (v : Byte) (i : Instr), (i = .writeRegister a v ∨ i = .writeRegisterWire a v) →
    MtsReady s → LinkFair s → s.slave.kind = .echo → Memory.wf s.slave.regs = true → exec i s = .next t →
    Memory.read t.slave.regs a.toNat = v ∧
    ∀ b : Addr7, b ≠ a → Memory.read t.slave.regs b.toNat = Memory.read s.slave.regs b.toNat

/-- 42 R207 (a), R201, R202: field isolation with `EchoSlave` and a fair link: after `setFieldValue` with no stray bit the
register holds `(prior & ~mask) | (value & mask)` under every policy, and every other register reads as before. -/
def Obligations.SetFieldValueIsolatesTheField : Prop :=
  ∀ (s t : State) (a : Addr7) (m v : Byte), MtsReady s → LinkFair s → s.slave.kind = .echo →
    Memory.wf s.slave.regs = true → v &&& ~~~m = 0 → exec (.setFieldValue a m v) s = .next t →
    Memory.read t.slave.regs a.toNat = (Memory.read s.slave.regs a.toNat &&& ~~~m) ||| (v &&& m) ∧
    ∀ b : Addr7, b ≠ a → Memory.read t.slave.regs b.toNat = Memory.read s.slave.regs b.toNat

/-- 42 R207 (b), R200: with `EchoSlave` and a fair link, `setBits` leaves `prior | mask` and every other register as
before, and doing it a second time leaves every register as the first time did. -/
def Obligations.SetBitsIsIdempotent : Prop :=
  ∀ (s : State) (a : Addr7) (m : Byte), MtsReady s → LinkFair s → s.slave.kind = .echo →
    Memory.wf s.slave.regs = true →
    ∃ t u, exec (.setBits a m) s = .next t ∧ exec (.setBits a m) t = .next u ∧
      Memory.read t.slave.regs a.toNat = Memory.read s.slave.regs a.toNat ||| m ∧
      (∀ b : Addr7, b ≠ a → Memory.read t.slave.regs b.toNat = Memory.read s.slave.regs b.toNat) ∧
      ∀ b : Addr7, Memory.read u.slave.regs b.toNat = Memory.read t.slave.regs b.toNat

/-- 42 R207 (c), 20 R64: no operation that only reads changes a register of the slave: with a fair link `readRegister`,
`getBits`, `getAxisValue` and `getTemperature` leave every register, whatever the slave's kind, and the state of an open
device (that a read gives it no new state is 20 R74; the state coded by a number is log 7). So does the wire pattern of a
read run by itself, which is the model's choice (log 11). -/
def Obligations.ReadingLeavesTheRegisters : Prop :=
  ∀ (s t : State) (i : Instr),
    ((∃ a, i = .readRegister a) ∨ (∃ a m, i = .getBits a m) ∨ (∃ ax, i = .getAxisValue ax) ∨ i = .getTemperature ∨
      ∃ a, i = .readRegisterWire a) →
    MtsReady s → LinkFair s → exec i s = .next t → t.slave.regs = s.slave.regs ∧ t.slave.device = s.slave.device

/-! ### The hang -/

/-- 41 R172, 60 R254, 40 R135 (95 E8): if the shifter never transfers, `readRegister` never returns: it stays at the hold
of T3, chip-select low, the operation in progress, no fault, `RESULT` not written. That the link is silent is
`linkFair = false` with a `sched` of agents and no S-XFER in it (log 4, log 5: thirty-two turns of the sequencer follow
it), and that `exec` answers the unfinished state is the model's own choice (log 5). -/
def Obligations.SilentLinkHangsTheRead : Prop :=
  ∀ (s : State) (a : Addr7), MtsReady s → s.linkFair = false →
    (∀ t ∈ s.sched, t.isAgent = true ∧ t ≠ .xfer) →
    ∃ t, exec (.readRegister a) s = .next t ∧ t.phase = .p3 ∧ t.mop = some .readRegister ∧ t.rxBuf = none ∧
      t.csN = false ∧ t.fault = none ∧ t.result = s.result ∧
      t.trace = s.trace ++ [.collab (.resetPin .csPin), .csLow, .tx (addressByte true a)]

/-! ### Invariants -/

/-- 10 R45 (its first sentence: chip-select low while `PHASE` is in `Selected`; the second is in `StepKeepsTheProtocol`),
R46 (b), 40 R122, 43 R236, 20 R60: every step, reset included, keeps the invariants of the block. Three clauses are the
model's choices: a line that is not driven is kept as 1 (log 18), the canonical form of the slave's memory (log 8), and
`MSTAGE` as the count of the steps of `initialize` (log 15). -/
def Obligations.StepKeepsTheBlockInvariants : Prop :=
  ∀ s t : State, BlockInv s → step s = .next t → BlockInv t

/-- The block's invariants hold right after reset (log 2, log 18). -/
def Obligations.BlockInvariantsHoldAtReset : Prop := BlockInv State.reset

/-- 41 R175, R171, 60 R252: after `initialize`, every step but the reset keeps the protocol invariant, and the only codes
it can record are `Reentry`, `OwnershipViolation`, `AlreadyInitialised`, `StrayFieldValue` and `IllegalCommand`: no
fault of the link, of a primitive or of chip-select. 10 R45, second sentence: chip-select high at rest, which holds from
the first T6 on, is kept as well; a state in the middle of a transaction meets its premise, so the end of the first
transaction establishes it. A state after an `initialize` that found a Byte unread in `RXBUF` does not meet `Protocol`
(log 37). -/
def Obligations.StepKeepsTheProtocol : Prop :=
  ∀ s t : State, Protocol s → s.sched.head? ≠ some .reset → step s = .next t →
    Protocol t ∧ (t.fault = s.fault ∨ ∃ f, t.fault = some f ∧ faultCode f ∈ [1, 2, 14, 16, 17]) ∧
    ((s.phase = .idle → s.csN = true) → t.phase = .idle → t.csN = true)

/-- 20 R70: the trace is only ever appended to. -/
def Obligations.TraceOnlyGrows : Prop :=
  ∀ s t : State, step s = .next t → s.trace <+: t.trace

/-! ### Arithmetic -/

/-- 42 R204, R208: the axis pattern read as two's complement is the signed high Byte times 256 plus the unsigned low
Byte. -/
def Obligations.AxisValueIsSigned : Prop :=
  ∀ hi lo : Byte, sint16 (axisPattern hi lo) = hi.toInt * 256 + lo.toNat
end

