-- ==== Sys2Proof/Laws/State.lean ====
section
/-! SUPPORT. The small lemmas of the state: what the two updates every operation uses (`raise`, `emit`) do to each field,
and what a step that settles leaves. Each is true by rfl. -/

namespace Sys2Proof.Laws

open Sys2Proof.Machine

variable (f : FaultRec) (e : Event) (s : State)

/-! ### `raise` sets `FAULT` and nothing else (60 R258) -/

@[simp] theorem raise_fault : (raise f s).fault = some f := rfl
@[simp] theorem raise_cfg : (raise f s).cfg = s.cfg := rfl
@[simp] theorem raise_cfgValid : (raise f s).cfgValid = s.cfgValid := rfl
@[simp] theorem raise_en : (raise f s).en = s.en := rfl
@[simp] theorem raise_txBuf : (raise f s).txBuf = s.txBuf := rfl
@[simp] theorem raise_shift : (raise f s).shift = s.shift := rfl
@[simp] theorem raise_shiftAct : (raise f s).shiftAct = s.shiftAct := rfl
@[simp] theorem raise_wireCfg : (raise f s).wireCfg = s.wireCfg := rfl
@[simp] theorem raise_rxBuf : (raise f s).rxBuf = s.rxBuf := rfl
@[simp] theorem raise_bsy : (raise f s).bsy = s.bsy := rfl
@[simp] theorem raise_phase : (raise f s).phase = s.phase := rfl
@[simp] theorem raise_csN : (raise f s).csN = s.csN := rfl
@[simp] theorem raise_csDrv : (raise f s).csDrv = s.csDrv := rfl
@[simp] theorem raise_dir : (raise f s).dir = s.dir := rfl
@[simp] theorem raise_addr : (raise f s).addr = s.addr := rfl
@[simp] theorem raise_wdata : (raise f s).wdata = s.wdata := rfl
@[simp] theorem raise_capt : (raise f s).capt = s.capt := rfl
@[simp] theorem raise_mop : (raise f s).mop = s.mop := rfl
@[simp] theorem raise_mstage : (raise f s).mstage = s.mstage := rfl
@[simp] theorem raise_mmask : (raise f s).mmask = s.mmask := rfl
@[simp] theorem raise_mval : (raise f s).mval = s.mval := rfl
@[simp] theorem raise_mtmp : (raise f s).mtmp = s.mtmp := rfl
@[simp] theorem raise_maddr : (raise f s).maddr = s.maddr := rfl
@[simp] theorem raise_hostIssued : (raise f s).hostIssued = s.hostIssued := rfl
@[simp] theorem raise_result : (raise f s).result = s.result := rfl
@[simp] theorem raise_initDone : (raise f s).initDone = s.initDone := rfl
@[simp] theorem raise_spiClk : (raise f s).spiClk = s.spiClk := rfl
@[simp] theorem raise_csClk : (raise f s).csClk = s.csClk := rfl
@[simp] theorem raise_pinsAf : (raise f s).pinsAf = s.pinsAf := rfl
@[simp] theorem raise_slave : (raise f s).slave = s.slave := rfl
@[simp] theorem raise_trace : (raise f s).trace = s.trace := rfl
@[simp] theorem raise_strayPolicy : (raise f s).strayPolicy = s.strayPolicy := rfl
@[simp] theorem raise_program : (raise f s).program = s.program := rfl
@[simp] theorem raise_draws : (raise f s).draws = s.draws := rfl
@[simp] theorem raise_sched : (raise f s).sched = s.sched := rfl
@[simp] theorem raise_linkFair : (raise f s).linkFair = s.linkFair := rfl

/-! ### `emit` appends to the trace and nothing else (20 R70) -/

@[simp] theorem emit_trace : (emit e s).trace = s.trace ++ [e] := rfl
@[simp] theorem emit_cfg : (emit e s).cfg = s.cfg := rfl
@[simp] theorem emit_cfgValid : (emit e s).cfgValid = s.cfgValid := rfl
@[simp] theorem emit_en : (emit e s).en = s.en := rfl
@[simp] theorem emit_txBuf : (emit e s).txBuf = s.txBuf := rfl
@[simp] theorem emit_shift : (emit e s).shift = s.shift := rfl
@[simp] theorem emit_shiftAct : (emit e s).shiftAct = s.shiftAct := rfl
@[simp] theorem emit_wireCfg : (emit e s).wireCfg = s.wireCfg := rfl
@[simp] theorem emit_rxBuf : (emit e s).rxBuf = s.rxBuf := rfl
@[simp] theorem emit_bsy : (emit e s).bsy = s.bsy := rfl
@[simp] theorem emit_phase : (emit e s).phase = s.phase := rfl
@[simp] theorem emit_csN : (emit e s).csN = s.csN := rfl
@[simp] theorem emit_csDrv : (emit e s).csDrv = s.csDrv := rfl
@[simp] theorem emit_dir : (emit e s).dir = s.dir := rfl
@[simp] theorem emit_addr : (emit e s).addr = s.addr := rfl
@[simp] theorem emit_wdata : (emit e s).wdata = s.wdata := rfl
@[simp] theorem emit_capt : (emit e s).capt = s.capt := rfl
@[simp] theorem emit_mop : (emit e s).mop = s.mop := rfl
@[simp] theorem emit_mstage : (emit e s).mstage = s.mstage := rfl
@[simp] theorem emit_mmask : (emit e s).mmask = s.mmask := rfl
@[simp] theorem emit_mval : (emit e s).mval = s.mval := rfl
@[simp] theorem emit_mtmp : (emit e s).mtmp = s.mtmp := rfl
@[simp] theorem emit_maddr : (emit e s).maddr = s.maddr := rfl
@[simp] theorem emit_hostIssued : (emit e s).hostIssued = s.hostIssued := rfl
@[simp] theorem emit_result : (emit e s).result = s.result := rfl
@[simp] theorem emit_initDone : (emit e s).initDone = s.initDone := rfl
@[simp] theorem emit_spiClk : (emit e s).spiClk = s.spiClk := rfl
@[simp] theorem emit_csClk : (emit e s).csClk = s.csClk := rfl
@[simp] theorem emit_pinsAf : (emit e s).pinsAf = s.pinsAf := rfl
@[simp] theorem emit_fault : (emit e s).fault = s.fault := rfl
@[simp] theorem emit_slave : (emit e s).slave = s.slave := rfl
@[simp] theorem emit_strayPolicy : (emit e s).strayPolicy = s.strayPolicy := rfl
@[simp] theorem emit_program : (emit e s).program = s.program := rfl
@[simp] theorem emit_draws : (emit e s).draws = s.draws := rfl
@[simp] theorem emit_sched : (emit e s).sched = s.sched := rfl
@[simp] theorem emit_linkFair : (emit e s).linkFair = s.linkFair := rfl

/-! ### `settle` -/

@[simp] theorem settle_ok (t : State) : settle s (.ok t) = t := rfl
@[simp] theorem settle_error : settle s (.error f) = raise f s := rfl

/-! ### Reset (10 R43, 70 R280, R281) -/

@[simp] theorem blockReset_cfg : (blockReset s).cfg = State.reset.cfg := rfl
@[simp] theorem blockReset_cfgValid : (blockReset s).cfgValid = State.reset.cfgValid := rfl
@[simp] theorem blockReset_en : (blockReset s).en = State.reset.en := rfl
@[simp] theorem blockReset_txBuf : (blockReset s).txBuf = State.reset.txBuf := rfl
@[simp] theorem blockReset_shift : (blockReset s).shift = State.reset.shift := rfl
@[simp] theorem blockReset_shiftAct : (blockReset s).shiftAct = State.reset.shiftAct := rfl
@[simp] theorem blockReset_wireCfg : (blockReset s).wireCfg = State.reset.wireCfg := rfl
@[simp] theorem blockReset_rxBuf : (blockReset s).rxBuf = State.reset.rxBuf := rfl
@[simp] theorem blockReset_bsy : (blockReset s).bsy = State.reset.bsy := rfl
@[simp] theorem blockReset_phase : (blockReset s).phase = State.reset.phase := rfl
@[simp] theorem blockReset_csN : (blockReset s).csN = State.reset.csN := rfl
@[simp] theorem blockReset_csDrv : (blockReset s).csDrv = State.reset.csDrv := rfl
@[simp] theorem blockReset_dir : (blockReset s).dir = State.reset.dir := rfl
@[simp] theorem blockReset_addr : (blockReset s).addr = State.reset.addr := rfl
@[simp] theorem blockReset_wdata : (blockReset s).wdata = State.reset.wdata := rfl
@[simp] theorem blockReset_capt : (blockReset s).capt = State.reset.capt := rfl
@[simp] theorem blockReset_mop : (blockReset s).mop = State.reset.mop := rfl
@[simp] theorem blockReset_mstage : (blockReset s).mstage = State.reset.mstage := rfl
@[simp] theorem blockReset_mmask : (blockReset s).mmask = State.reset.mmask := rfl
@[simp] theorem blockReset_mval : (blockReset s).mval = State.reset.mval := rfl
@[simp] theorem blockReset_mtmp : (blockReset s).mtmp = State.reset.mtmp := rfl
@[simp] theorem blockReset_maddr : (blockReset s).maddr = State.reset.maddr := rfl
@[simp] theorem blockReset_hostIssued : (blockReset s).hostIssued = State.reset.hostIssued := rfl
@[simp] theorem blockReset_result : (blockReset s).result = State.reset.result := rfl
@[simp] theorem blockReset_initDone : (blockReset s).initDone = State.reset.initDone := rfl
@[simp] theorem blockReset_spiClk : (blockReset s).spiClk = State.reset.spiClk := rfl
@[simp] theorem blockReset_csClk : (blockReset s).csClk = State.reset.csClk := rfl
@[simp] theorem blockReset_pinsAf : (blockReset s).pinsAf = State.reset.pinsAf := rfl
@[simp] theorem blockReset_fault : (blockReset s).fault = State.reset.fault := rfl
@[simp] theorem blockReset_slave : (blockReset s).slave = s.slave := rfl
@[simp] theorem blockReset_trace : (blockReset s).trace = s.trace := rfl
@[simp] theorem blockReset_strayPolicy : (blockReset s).strayPolicy = s.strayPolicy := rfl
@[simp] theorem blockReset_program : (blockReset s).program = s.program := rfl
@[simp] theorem blockReset_draws : (blockReset s).draws = s.draws := rfl
@[simp] theorem blockReset_sched : (blockReset s).sched = s.sched := rfl
@[simp] theorem blockReset_linkFair : (blockReset s).linkFair = s.linkFair := rfl

end Sys2Proof.Laws
end

