-- ==== Sys2Proof/Laws/Decode.lean ====
section
/-! SUPPORT. The lemmas of the encodings: fields and words determine each other, and a control image gives back its
configuration. -/

namespace Sys2Proof.Laws

/-- The fields of a packed word are the fields packed (30 R98). -/
@[simp] theorem fieldsOf_packFields (f : CmdFields) : fieldsOf (packFields f) = f := by
  obtain ⟨opc, z, a, m, v⟩ := f
  simp only [fieldsOf, packFields, CmdFields.mk.injEq]
  refine ⟨?_, ?_, ?_, ?_, ?_⟩ <;>
  · apply BitVec.eq_of_getLsbD_eq
    intro i hi
    simp only [BitVec.getLsbD_extractLsb', BitVec.getLsbD_append]
    grind

/-- A word is its fields packed (30 R98). -/
@[simp] theorem packFields_fieldsOf (w : Word32) : packFields (fieldsOf w) = w := by
  apply BitVec.eq_of_getLsbD_eq
  intro i hi
  simp only [fieldsOf, packFields, BitVec.getLsbD_extractLsb', BitVec.getLsbD_append]
  grind

/-- The image of a well-formed configuration names it (30 R94, R95). -/
theorem cfgOfImage_controlImage {c : Cfg} (h : c.WellFormed) : cfgOfImage (controlImage c false) = .ok c := by
  obtain ⟨m, bo, fw, cp, cph, br, ss⟩ := c
  obtain ⟨h1, h2⟩ := h
  simp only [Cfg.frameWidthOk, Cfg.baudDivisorOk, List.mem_cons, List.not_mem_nil, or_false] at h1 h2
  rcases h1 with rfl | rfl <;> rcases h2 with rfl | rfl | rfl | rfl | rfl | rfl | rfl | rfl <;> cases m <;>
    cases bo <;> cases cp <;> cases cph <;> cases ss <;> rfl

/-- The two halves of a wire pattern: the first frame is the address byte (30 R91). -/
theorem wirePattern_frames (d : Bool) (a : Addr7) (v : Byte) :
    (wirePattern d a v).extractLsb' 8 8 = Machine.addressByte d a ∧ (wirePattern d a v).extractLsb' 0 8 = v := by
  constructor <;>
  · apply BitVec.eq_of_getLsbD_eq
    intro i hi
    simp only [wirePattern, Machine.addressByte, BitVec.getLsbD_extractLsb', BitVec.getLsbD_append]
    grind

end Sys2Proof.Laws
end

