-- ==== Sys2Proof/Laws/Schedule.lean ====
section
/-! SUPPORT. What a schedule can do. An operation whose states form a course of stages, each left only by the one agent
it needs, runs to its last stage under every schedule of the agents that is followed by rounds in which that agent moves
(40 R135). -/

namespace Sys2Proof.Laws

open Sys2Proof.Machine

/-! ### One step of an agent -/

/-- A step that is not enabled changes nothing (00 R8). -/
theorem agentStep_held {t : Turn} {s : State} (h : agentEnabled t s = false) : agentStep t s = s := by
  simp [agentStep, h]

/-- Where the sequencer is enabled its step is what happens. -/
theorem agentStep_sequencer {s : State} (h : sequencerEnabled s = true) :
    agentStep .sequencer s = sequencerStep s := by simp [agentStep, agentEnabled, h]

/-- Where S-LOAD is enabled it is what happens. -/
theorem agentStep_load {s : State} (h : loadEnabled s = true) : agentStep .load s = loadStep s := by
  simp [agentStep, agentEnabled, h]

/-- Where S-XFER is enabled it is what happens. -/
theorem agentStep_xfer {s : State} (h : xferEnabled s = true) : agentStep .xfer s = xferStep s := by
  simp [agentStep, agentEnabled, h]

/-- Where S-DRAIN is enabled it is what happens. -/
theorem agentStep_drain {s : State} (h : drainEnabled s = true) : agentStep .drain s = drainStep s := by
  simp [agentStep, agentEnabled, h]

/-! ### `advance` -/

@[simp] theorem advance_nil (s : State) : advance [] s = ([], s) := rfl

theorem advance_cons (t : Turn) (ts : List Turn) (s : State) :
    advance (t :: ts) s =
      if s.running && t.isAgent then advance ts (agentStep t s) else (t :: ts, s) := rfl

/-- An operation that is not running uses no turn. -/
theorem advance_stopped {s : State} (h : s.running = false) (ts : List Turn) : advance ts s = (ts, s) := by
  cases ts <;> simp [advance_cons, h]

/-- Turns one after the other. -/
theorem advance_append (us ts : List Turn) (s : State) :
    advance (us ++ ts) s =
      match advance us s with
      | ([], t) => advance ts t
      | (u :: rest, t) => (u :: rest ++ ts, t) := by
  induction us generalizing s with
  | nil => rfl
  | cons u us ih =>
    simp only [List.cons_append, advance_cons]
    split
    · exact ih _
    · rfl

/-! ### Courses -/

/-- The stages of an operation: stage `k`, with `BSY` free, is left for stage `k + 1` by a step of the agent
`need k` and by nothing else; the operation runs until stage `n`. -/
structure Course (stage : Nat → Bool → State) (need : Nat → Turn) (n : Nat) : Prop where
  runs : ∀ k b, k < n → (stage k b).running = true
  ends : ∀ b, (stage n b).running = false
  moves : ∀ k b t, k < n → t.isAgent = true →
    ∃ b', agentStep t (stage k b) = stage (if t = need k then k + 1 else k) b'

variable {stage : Nat → Bool → State} {need : Nat → Turn} {n : Nat}

/-- Under turns of the agents a course only goes forward; turns are left over only at its end. -/
theorem Course.advance_forward (C : Course stage need n) : ∀ (ts : List Turn), (∀ t ∈ ts, t.isAgent = true) →
    ∀ k b, k ≤ n → ∃ k' b' rest, advance ts (stage k b) = (rest, stage k' b') ∧ k ≤ k' ∧ k' ≤ n ∧
      rest <:+ ts ∧ (k' < n → rest = []) ∧ (k < n → need k ∈ ts → k < k') := by
  intro ts
  induction ts with
  | nil => intro _ k b hk; exact ⟨k, b, [], rfl, le_refl _, hk, List.suffix_rfl, fun _ => rfl, by simp⟩
  | cons t ts ih =>
    intro hts k b hk
    by_cases hkn : k < n
    · obtain ⟨b1, h1⟩ := C.moves k b t hkn (hts t (by simp))
      have hstep : advance (t :: ts) (stage k b) = advance ts (stage (if t = need k then k + 1 else k) b1) := by
        simp [advance_cons, C.runs k b hkn, hts t (by simp), h1]
      obtain ⟨k', b', rest, he, hle, hn, hsuf, hrest, hneed⟩ :=
        ih (fun u hu => hts u (by simp [hu])) (if t = need k then k + 1 else k) b1 (by split <;> omega)
      refine ⟨k', b', rest, hstep.trans he, ?_, hn, hsuf.trans (List.suffix_cons t ts), hrest, ?_⟩
      · split at hle <;> omega
      · intro _ hmem
        by_cases ht : t = need k
        · simp only [ht, if_true] at hle
          omega
        · simp only [ht, if_false] at hneed hle
          have : need k ∈ ts := by
            rcases List.mem_cons.mp hmem with h | h
            · exact absurd h.symm ht
            · exact h
          exact hneed hkn this
    · obtain rfl : k = n := by omega
      exact ⟨k, b, t :: ts, advance_stopped (C.ends b) _, le_refl _, le_refl _, List.suffix_rfl,
        fun h => absurd h (by omega), fun h => absurd h (by omega)⟩

/-- A course reaches its end within as many rounds of all the agents it needs as it has stages. -/
theorem Course.advance_rounds (C : Course stage need n) {round : List Turn} (hagent : ∀ t ∈ round, t.isAgent = true)
    (hneed : ∀ k, k < n → need k ∈ round) : ∀ m k b, k ≤ n → n ≤ k + m →
    ∃ b', (advance (List.replicate m round).flatten (stage k b)).2 = stage n b' := by
  intro m
  induction m with
  | zero =>
    intro k b hk hm
    obtain rfl : k = n := by omega
    exact ⟨b, rfl⟩
  | succ m ih =>
    intro k b hk hm
    by_cases hkn : k < n
    · obtain ⟨k', b', rest, he, hle, hn, _, hrest, hfwd⟩ := C.advance_forward round hagent k b hk
      have hlt := hfwd hkn (hneed k hkn)
      simp only [List.replicate_succ, List.flatten_cons, advance_append, he]
      by_cases hk'n : k' < n
      · simp only [hrest hk'n]
        exact ih k' b' hn (by omega)
      · obtain rfl : k' = n := by omega
        cases rest with
        | nil => exact ih k' b' le_rfl (by omega)
        | cons u us => exact ⟨b', rfl⟩
    · obtain rfl : k = n := by omega
      exact ⟨b, by rw [advance_stopped (C.ends b)]⟩

/-- The tail of turns is thirty-two rounds. -/
theorem tailTurns_rounds (fair : Bool) :
    tailTurns fair = (List.replicate 32 (if fair then fairRound else [.sequencer])).flatten := by
  cases fair
  · simp [tailTurns]
  · rfl

/-- The run of an operation whose states form a course ends at its last stage, with turns of the schedule left over. -/
theorem Course.runOperation (C : Course stage need n) (hn : n ≤ 32) {k : Nat} {b : Bool} (hk : k ≤ n)
    (hsched : ∀ t ∈ (stage k b).sched, t.isAgent = true)
    (hneed : ∀ j, j < n → need j ∈ if (stage k b).linkFair then fairRound else [.sequencer])
    (hfair : ∀ j b', (stage j b').linkFair = (stage k b).linkFair) :
    ∃ b' ts, Machine.runOperation (stage k b) = { stage n b' with sched := ts } ∧ ts <:+ (stage k b).sched := by
  obtain ⟨k', b', rest, he, hle, hn', hsuf, hrest, _⟩ := C.advance_forward (stage k b).sched hsched k b hk
  unfold Machine.runOperation
  simp only [he]
  cases rest with
  | nil =>
    rw [hfair, tailTurns_rounds]
    obtain ⟨b'', hb⟩ := C.advance_rounds (round := if (stage k b).linkFair then fairRound else [.sequencer])
      (by split <;> decide) hneed 32 k' b' hn' (by omega)
    refine ⟨b'', [], ?_, List.nil_suffix⟩
    simp only [hb]
  | cons u us =>
    have : k' = n := by
      by_contra h
      simpa using hrest (by omega)
    subst this
    exact ⟨b', u :: us, rfl, hsuf⟩

end Sys2Proof.Laws
end

