-- ==== Sys2Proof/Laws/Initialise.lean ====
section
/-! SUPPORT. The course of `initialize` (43 R230): its eight steps and its return, each taken by the sequencer, with no
step of the shifter between them that does anything. -/

namespace Sys2Proof.Laws

open Sys2Proof.Machine

/-- The number of events `initialize` has recorded after its first `k` steps. -/
def initEventCount : Nat → Nat
  | 0 => 0
  | 1 => 1
  | 2 => 2
  | 3 => 5
  | 4 => 6
  | 5 => 8
  | 6 => 8
  | 7 => 8
  | _ => 10

/-- The state after the first `k` steps of `initialize` issued in `s`; the ninth step is the return. -/
def initState (s : State) (k : Nat) (_ : Bool) : State :=
  { s with
    mop := if k < 9 then some .initialise else none
    mstage := if k < 9 then k else 0
    hostIssued := true
    spiClk := decide (1 ≤ k) || s.spiClk
    csClk := decide (2 ≤ k) || s.csClk
    pinsAf := decide (3 ≤ k) || s.pinsAf
    csDrv := decide (4 ≤ k) || s.csDrv
    csN := if k < 5 then s.csN else decide (k < 8)
    cfg := if k < 6 then s.cfg else initCfg
    cfgValid := decide (6 ≤ k) || s.cfgValid
    en := decide (7 ≤ k)
    initDone := decide (8 ≤ k)
    slave :=
      if k < 5 then s.slave
      else if k < 8 then (if s.csN then s.slave else slaveDeselect s.slave)
      else { s.slave with phase := .awaitAddr }
    trace := s.trace ++ initEvents.take (initEventCount k) }

variable {s : State}

/-- The first stage is the issue. -/
theorem initState_start (h : InitReady s) (b : Bool) : initState s 0 b = startOperation .initialise true s := by
  obtain ⟨_, _, hi, _, he, _⟩ := h
  simp [initState, startOperation, initEventCount, hi, he]

theorem initState_move (h : InitReady s) {k : Nat} (hk : k < 9) (b : Bool) :
    agentStep .sequencer (initState s k b) = initState s (k + 1) b := by
  obtain ⟨hf, hm, hi, hp, he, ht, ha, hb⟩ := h
  rw [agentStep_sequencer (by simp [sequencerEnabled, initState, hf, hp, hk])]
  have hstep : sequencerStep (initState s k b) = idleStep .initialise (initState s k b) := by
    simp [sequencerStep, initState, hk, hp]
  rw [hstep]
  interval_cases k
  all_goals
    simp [idleStep, initStage, initState, Except.map, settle, initClockSpi, initClockCs, initPins, initBusPin, initCsPin,
      csDeassert, primConfigure, primEnable, clocked, initSelect, csAssert, collabCall, emit, returnStep, returnValue,
      initEvents, initEventCount, slaveSelect]
  · cases s.csN <;> simp [slaveDeselect]

theorem initCourse (h : InitReady s) : Course (initState s) (fun _ => .sequencer) 9 where
  runs k b hk := by simp [initState, State.running, h.1, hk]
  ends b := by simp [initState, State.running]
  moves k b t hk ht := by
    obtain ⟨hf, hm, hi, hp, he, htx, ha, hb⟩ := h
    refine ⟨b, ?_⟩
    by_cases hs : t = .sequencer
    · subst hs
      simpa using initState_move ⟨hf, hm, hi, hp, he, htx, ha, hb⟩ hk b
    · simp only [hs, if_false]
      refine agentStep_held ?_
      cases t <;>
        simp_all [agentEnabled, loadEnabled, xferEnabled, drainEnabled, initState, State.txe, Turn.isAgent]

/-- The run of `initialize` ends in its last stage under every schedule of the agents, fair or not. -/
theorem run_init (h : InitReady s) (hs : ∀ t ∈ s.sched, t.isAgent = true) :
    ∃ ts, ts <:+ s.sched ∧
      runOperation (startOperation .initialise true s) = { initState s 9 false with sched := ts } := by
  rw [← initState_start h false]
  obtain ⟨b, ts, hr, hsuf⟩ := (initCourse h).runOperation (by omega) (k := 0) (b := false) (by omega) hs
    (fun j _ => by
      split
      · decide
      · simp)
    (fun j b => rfl)
  exact ⟨ts, hsuf, hr⟩

end Sys2Proof.Laws
end

