-- ==== Sys2Proof/Laws/Memory.lean ====
section
/-! SUPPORT. The laws of the slave's memory: a read after a write, and that every memory operation keeps the canonical
form. -/

namespace Sys2Proof.Laws

open Sys2Proof.Machine

theorem read_cell_append (a : Nat) (v : Byte) (m : Memory) (b : Nat) :
    Memory.read (Memory.cell a v ++ m) b =
      if a = b ∧ v ≠ unlistedByte then v else Memory.read m b := by
  unfold Memory.cell
  split
  · simp_all
  · simp_all [Memory.read]
    split <;> simp_all [eq_comm]

/-- Below its lower bound a canonical memory lists nothing. -/
theorem read_below {m : Memory} : ∀ {low a : Nat}, Memory.wfFrom low m = true → a < low →
    Memory.read m a = unlistedByte := by
  induction m with
  | nil => intro low a _ _; rfl
  | cons c m ih =>
    obtain ⟨b, w⟩ := c
    intro low a h ha
    simp only [Memory.wfFrom, Bool.and_eq_true, decide_eq_true_eq] at h
    have : a ≠ b := by omega
    simp [Memory.read, this]
    exact ih h.2 (by omega)

/-- A canonical memory stays canonical under a smaller bound. -/
theorem wfFrom_mono {m : Memory} {low low' : Nat} (h : Memory.wfFrom low m = true) (hl : low' ≤ low) :
    Memory.wfFrom low' m = true := by
  cases m with
  | nil => rfl
  | cons c m =>
    obtain ⟨b, w⟩ := c
    simp only [Memory.wfFrom, Bool.and_eq_true, decide_eq_true_eq] at h ⊢
    exact ⟨⟨⟨by omega, h.1.1.2⟩, h.1.2⟩, h.2⟩

theorem wfFrom_cell {m : Memory} {low a : Nat} (v : Byte) (h : Memory.wfFrom (a + 1) m = true) (hl : low ≤ a)
    (ha : a < 128) : Memory.wfFrom low (Memory.cell a v ++ m) = true := by
  unfold Memory.cell
  split
  · exact wfFrom_mono h (by omega)
  · simp_all [Memory.wfFrom]

/-- A write keeps the canonical form. -/
theorem wfFrom_write {m : Memory} {a : Nat} (v : Byte) : ∀ {low : Nat}, Memory.wfFrom low m = true → low ≤ a →
    a < 128 → Memory.wfFrom low (Memory.write m a v) = true := by
  induction m with
  | nil =>
    intro low h hl ha
    simpa [Memory.write] using wfFrom_cell v (m := []) (a := a) rfl hl ha
  | cons c m ih =>
    obtain ⟨b, w⟩ := c
    intro low h hl ha
    have h' := h
    simp only [Memory.wfFrom, Bool.and_eq_true, decide_eq_true_eq] at h
    unfold Memory.write
    split
    · refine wfFrom_cell v ?_ hl ha
      simp_all [Memory.wfFrom]
    · split
      · next _ hb => subst hb; exact wfFrom_cell v h.2 hl ha
      · simp only [Memory.wfFrom, Bool.and_eq_true, decide_eq_true_eq]
        exact ⟨h.1, ih h.2 (by omega) ha⟩

/-- A write of a register of the space keeps the canonical form. -/
theorem wf_write {m : Memory} (h : Memory.wf m = true) (a : Addr7) (v : Byte) :
    Memory.wf (Memory.write m a.toNat v) = true :=
  wfFrom_write v h (Nat.zero_le _) a.isLt

/-- Read after write. -/
theorem read_write {m : Memory} {a : Nat} (v : Byte) (b : Nat) : ∀ {low : Nat}, Memory.wfFrom low m = true →
    Memory.read (Memory.write m a v) b = if a = b then v else Memory.read m b := by
  induction m with
  | nil =>
    intro low _
    have := read_cell_append a v [] b
    simp only [List.append_nil] at this
    simp only [Memory.write, this, Memory.read]
    split <;> split <;> simp_all
  | cons c m ih =>
    obtain ⟨c, w⟩ := c
    intro low h
    simp only [Memory.wfFrom, Bool.and_eq_true, decide_eq_true_eq] at h
    unfold Memory.write
    split
    · next hlt =>
      rw [read_cell_append]
      by_cases hab : a = b
      · subst hab
        by_cases hv : v = unlistedByte
        · have hne : a ≠ c := by omega
          simp [hv, Memory.read, hne, read_below h.2 (a := a) (by omega)]
        · simp [hv]
      · simp [hab]
    · split
      · next _ hac =>
        subst hac
        rw [read_cell_append]
        by_cases hab : a = b
        · subst hab
          by_cases hv : v = unlistedByte
          · simp [hv, read_below h.2 (a := a) (by omega)]
          · simp [hv]
        · simp [hab, Memory.read, Ne.symm hab]
      · next _ hac =>
        simp only [Memory.read]
        split
        · next hbc => subst hbc; simp [hac]
        · exact ih h.2

/-- Read after write, for a canonical memory. -/
theorem read_write_wf {m : Memory} (h : Memory.wf m = true) (a b : Nat) (v : Byte) :
    Memory.read (Memory.write m a v) b = if a = b then v else Memory.read m b :=
  read_write v b h

/-- The memory right after reset is canonical. -/
theorem reset_memory_wf : Memory.wf State.reset.slave.regs = true := rfl

end Sys2Proof.Laws
end

