-- ==== Sys2Proof/Laws/Invariants.lean ====
section
/-! SUPPORT. What every step can do, said once: the forms of an agent's step, of an issue and of a step of the machine,
and that a property kept by each of these is kept by every run of an operation and by every step. -/

namespace Sys2Proof.Laws

open Sys2Proof.Machine

/-! ### Settling -/

/-- What a step that settles leaves: its new state, or a fault recorded in the state it started from (60 R258). -/
theorem settle_cases (s : State) (r : Except FaultRec State) :
    (∃ t, r = .ok t ∧ settle s r = t) ∨ ∃ f, r = .error f ∧ settle s r = raise f s := by
  cases r with
  | ok t => exact .inl ⟨t, rfl, rfl⟩
  | error f => exact .inr ⟨f, rfl, rfl⟩

/-! ### The forms of an agent's step -/

/-- A step of an agent changes nothing, or is that agent's step where it is enabled. -/
theorem agentStep_cases (t : Turn) (s : State) :
    agentStep t s = s ∨ (t = .sequencer ∧ sequencerEnabled s = true ∧ agentStep t s = sequencerStep s) ∨
      (t = .load ∧ loadEnabled s = true ∧ agentStep t s = loadStep s) ∨
      (t = .xfer ∧ xferEnabled s = true ∧ agentStep t s = xferStep s) ∨
      (t = .drain ∧ drainEnabled s = true ∧ agentStep t s = drainStep s) := by
  by_cases h : agentEnabled t s = true
  · cases t
    · simp [agentStep]
    · exact .inr (.inl ⟨rfl, h, agentStep_sequencer h⟩)
    · exact .inr (.inr (.inl ⟨rfl, h, agentStep_load h⟩))
    · exact .inr (.inr (.inr (.inl ⟨rfl, h, agentStep_xfer h⟩)))
    · exact .inr (.inr (.inr (.inr ⟨rfl, h, agentStep_drain h⟩)))
    · simp [agentStep]
  · exact .inl (agentStep_held (by simpa using h))

/-- A step of the sequencer is the transition of its phase, settled; while `PHASE = Idle` it is the next step of
`initialize`, the T1 of the operation's next transaction, or the operation's return (41 R162 to R167, 43 R230). -/
theorem sequencerStep_cases {s : State} (h : sequencerEnabled s = true) :
    ∃ op, s.mop = some op ∧
      ((s.phase = .idle ∧ op = .initialise ∧ ∃ r, initStage s.mstage s = some r ∧
          sequencerStep s = settle s (r.map fun t => { t with mstage := s.mstage + 1 })) ∨
        (s.phase = .idle ∧ op ≠ .initialise ∧ ∃ d a v, nextTransaction op s = some (d, a, v) ∧
          sequencerStep s = settle s (t1 d a v s)) ∨
        (s.phase = .idle ∧ (op = .initialise → 8 ≤ s.mstage) ∧ sequencerStep s = returnStep op s) ∨
        (s.phase = .p2 ∧ s.txBuf = none ∧ sequencerStep s = settle s (t2 s)) ∨
        (s.phase = .p3 ∧ s.rxBuf.isSome = true ∧ sequencerStep s = settle s (t3 s)) ∨
        (s.phase = .p4 ∧ s.txBuf = none ∧ sequencerStep s = settle s (t4 s)) ∨
        (s.phase = .p5 ∧ s.rxBuf.isSome = true ∧ sequencerStep s = settle s (t5 s)) ∨
        (s.phase = .p6 ∧ sequencerStep s = settle s (t6 op s))) := by
  unfold sequencerEnabled at h
  cases hm : s.mop with
  | none => simp [hm] at h
  | some op =>
    refine ⟨op, rfl, ?_⟩
    cases hp : s.phase <;> simp only [hp, hm] at h <;> simp only [sequencerStep, hm, hp]
    · by_cases hop : op = .initialise
      · subst hop
        simp only [idleStep]
        cases hi : initStage s.mstage s with
        | none =>
          refine .inr (.inr (.inl ⟨trivial, fun _ => ?_, rfl⟩))
          by_contra hlt
          exact absurd hi (by
            unfold initStage
            have : s.mstage < 8 := by omega
            interval_cases s.mstage <;> simp)
        | some r => exact .inl ⟨trivial, trivial, r, rfl, rfl⟩
      · have hidle : idleStep op s =
            match nextTransaction op s with
            | some (d, a, v) => settle s (t1 d a v s)
            | none => returnStep op s := by cases op <;> first | rfl | exact absurd rfl hop
        rw [hidle]
        cases hn : nextTransaction op s with
        | none => exact .inr (.inr (.inl ⟨trivial, fun h => absurd h hop, rfl⟩))
        | some p => exact .inr (.inl ⟨trivial, hop, p.1, p.2.1, p.2.2, rfl, rfl⟩)
    all_goals simp_all [State.txe, State.rxne]

/-! ### A property kept by every agent is kept by a run -/

/-- What every step of an agent keeps, turns of the agents keep. -/
theorem advance_keeps {P : State → Prop} (hagent : ∀ t s, P s → P (agentStep t s)) (ts : List Turn) {s : State}
    (h : P s) : P (advance ts s).2 := by
  induction ts generalizing s with
  | nil => exact h
  | cons t ts ih =>
    rw [advance_cons]
    split
    · exact ih (hagent t s h)
    · exact h

/-- What every step of an agent keeps, and what does not read the schedule, the run of an operation keeps. -/
theorem runOperation_keeps {P : State → Prop} (hagent : ∀ t s, P s → P (agentStep t s))
    (hsched : ∀ s ts, P s → P { s with sched := ts }) {s : State} (h : P s) : P (runOperation s) := by
  have h1 := advance_keeps hagent s.sched h
  simp only [runOperation]
  split
  · exact hsched _ _ (advance_keeps hagent _ h1)
  · exact hsched _ _ h1

/-! ### What an issue can do -/

/-- An issued primitive changes nothing, records a fault, or takes its one step, the checks on `FAULT`, `MOP` and
`INIT_DONE` passed (40 R120). -/
theorem issuePrimitive_cases (op : Op) (owned : Bool) (body : State → Except FaultRec State) (s : State) :
    issuePrimitive op owned body s = s ∨ (∃ f, issuePrimitive op owned body s = raise f s) ∨
      (s.fault = none ∧ s.mop = none ∧ (owned = true → s.initDone = false) ∧
        ∃ t, body s = .ok t ∧ issuePrimitive op owned body s = t) := by
  unfold issuePrimitive primitiveCheck
  cases hf : s.fault with
  | some f => simp
  | none =>
    cases hm : s.mop with
    | some r => exact .inr (.inl ⟨.reentry op r, by simp⟩)
    | none =>
      by_cases ho : owned = true ∧ s.initDone = true
      · exact .inr (.inl ⟨.ownershipViolation op, by simp [ho]⟩)
      · have : (owned && s.initDone) = false := by
          cases h1 : owned <;> cases h2 : s.initDone <;> simp_all
        simp only [this, Option.isSome_none, Bool.false_eq_true, if_false]
        rcases settle_cases s (body s) with ⟨t, hb, ht⟩ | ⟨f, hb, ht⟩
        · exact .inr (.inr ⟨trivial, trivial, fun h => by simp_all, t, hb, ht⟩)
        · exact .inr (.inl ⟨f, ht⟩)

/-- An issued operation changes nothing, records a fault, or runs, its checks passed (41 R160). -/
theorem issueOperation_cases (op : Op) (latch : State → State) (s : State) :
    issueOperation op latch s = s ∨ (∃ f, issueOperation op latch s = raise f s) ∨
      (s.fault = none ∧ s.mop = none ∧ operationCheck op s = none ∧
        issueOperation op latch s = runOperation (startOperation op true (latch s))) := by
  unfold issueOperation
  cases hf : s.fault with
  | some f => simp
  | none =>
    simp only [Option.isSome_none, Bool.false_eq_true, if_false]
    cases hc : operationCheck op s with
    | some f => exact .inr (.inl ⟨f, rfl⟩)
    | none =>
      refine .inr (.inr ⟨trivial, ?_, rfl, rfl⟩)
      cases hm : s.mop with
      | none => rfl
      | some r => simp [operationCheck, hm] at hc

/-- The run of an operation other than `initialize` starts where the host may issue it (41 R160). -/
theorem issueOperation_runs {op : Op} (latch : State → State) {s : State} (hf : s.fault = none) (hm : s.mop = none)
    (hi : s.initDone = true) (hop : op ≠ .initialise) :
    issueOperation op latch s = runOperation (startOperation op true (latch s)) := by
  unfold issueOperation operationCheck
  simp only [hf, hm]
  cases op <;> simp_all

/-- A transaction started by itself changes nothing, records a fault, or runs (41 R170; log 11). -/
theorem issueTransaction_cases (op : Op) (latch : State → State) (s : State) :
    issueTransaction op latch s = s ∨ (∃ f, issueTransaction op latch s = raise f s) ∨
      (s.fault = none ∧ s.mop = none ∧
        issueTransaction op latch s = runOperation (startOperation op false (latch s))) := by
  unfold issueTransaction
  cases hf : s.fault with
  | some f => simp
  | none =>
    cases hm : s.mop with
    | some r => exact .inr (.inl ⟨.reentry op r, by simp⟩)
    | none => simp

/-- The run of a transaction by itself starts where no operation is in progress (log 11). -/
theorem issueTransaction_runs {op : Op} (latch : State → State) {s : State} (hf : s.fault = none)
    (hm : s.mop = none) : issueTransaction op latch s = runOperation (startOperation op false (latch s)) := by
  simp [issueTransaction, hf, hm]

/-! ### A property kept by everything a step is made of is kept by every step -/

/-- The parts of a step, each said to keep `P`: an agent's step, the schedule and the program moving on, the faults an
issue can record, the primitives the host issues, and the start of an operation. -/
structure Kept (P : State → Prop) : Prop where
  agent : ∀ t s, P s → P (agentStep t s)
  sched : ∀ s ts, P s → P { s with sched := ts }
  program : ∀ s ws, P s → P { s with program := ws }
  reentry : ∀ s op r, P s → s.fault = none → s.mop = some r → P (raise (.reentry op r) s)
  ownership : ∀ s op, P s → s.fault = none → s.initDone = true → P (raise (.ownershipViolation op) s)
  notInitialised : ∀ s op, P s → s.fault = none → s.initDone = false → P (raise (.notInitialised op) s)
  alreadyInitialised : ∀ s, P s → s.fault = none → s.initDone = true → P (raise .alreadyInitialised s)
  stray : ∀ s m v, P s → s.fault = none → P (raise (.strayFieldValue m v) s)
  illegal : ∀ s w, P s → s.fault = none → P (raise (.illegalCommand w) s)
  configure : ∀ s c, P s → s.fault = none → s.mop = none → s.initDone = false → P (settle s (primConfigure c s))
  enable : ∀ s, P s → s.fault = none → s.mop = none → s.initDone = false → P (settle s (primEnable s))
  disable : ∀ s, P s → s.fault = none → s.mop = none → s.initDone = false → P (settle s (primDisable s))
  write : ∀ s b, P s → s.fault = none → s.mop = none → s.initDone = false → P (settle s (primWrite b s))
  read : ∀ s, P s → s.fault = none → s.mop = none → s.initDone = false →
    P (settle s ((primRead s).map fun r => { r.2 with result := zext16 r.1 }))
  query : ∀ s op flag, P s → s.fault = none → s.mop = none → P (settle s (primQuery op flag s))
  start : ∀ s op host a m v, P s → s.fault = none → s.mop = none → (op = .initialise → s.initDone = false) →
    P (startOperation op host { s with maddr := a, mmask := m, mval := v })

variable {P : State → Prop}

theorem Kept.run (K : Kept P) {s : State} (h : P s) : P (runOperation s) := runOperation_keeps K.agent K.sched h

theorem Kept.issuePrimitive (K : Kept P) {op : Op} {owned : Bool} {body : State → Except FaultRec State} {s : State}
    (h : P s)
    (hbody : s.fault = none → s.mop = none → (owned = true → s.initDone = false) → P (settle s (body s))) :
    P (Machine.issuePrimitive op owned body s) := by
  unfold Machine.issuePrimitive primitiveCheck
  cases hf : s.fault with
  | some f => simpa using h
  | none =>
    simp only [Option.isSome_none, Bool.false_eq_true, if_false]
    cases hm : s.mop with
    | some r => exact K.reentry s op r h hf hm
    | none =>
      simp only
      split
      · next _ f hc =>
        split at hc
        · next ho =>
          cases hc
          exact K.ownership s op h hf (by simp_all)
        · cases hc
      · next hc =>
        refine hbody hf hm fun ho => ?_
        split at hc
        · cases hc
        · next hn => cases h2 : s.initDone <;> simp_all

theorem Kept.issueOperation (K : Kept P) {op : Op} {a : Addr7} {m v : Byte} {latch : State → State} {s : State}
    (h : P s) (hl : latch s = { s with maddr := a, mmask := m, mval := v }) :
    P (Machine.issueOperation op latch s) := by
  unfold Machine.issueOperation
  cases hf : s.fault with
  | some f => simpa using h
  | none =>
    simp only [Option.isSome_none, Bool.false_eq_true, if_false]
    cases hm : s.mop with
    | some r =>
      simp only [operationCheck, hm]
      exact K.reentry s op r h hf hm
    | none =>
      cases hi : s.initDone <;> by_cases hop : op = .initialise
      · subst hop
        have hc : operationCheck .initialise s = none := by simp [operationCheck, hm, hi]
        simp only [hc, hl]
        exact K.run (K.start s _ _ a m v h hf hm fun _ => hi)
      · have hc : operationCheck op s = some (.notInitialised op) := by
          unfold operationCheck; cases op <;> simp_all
        simp only [hc]
        exact K.notInitialised s op h hf hi
      · subst hop
        simp only [operationCheck, hm, hi]
        exact K.alreadyInitialised s h hf hi
      · have hc : operationCheck op s = none := by
          unfold operationCheck; cases op <;> simp_all
        simp only [hc, hl]
        exact K.run (K.start s _ _ a m v h hf hm fun h => absurd h hop)

theorem Kept.issueTransaction (K : Kept P) {op : Op} {a : Addr7} {m v : Byte} {latch : State → State} {s : State}
    (h : P s) (hop : op ≠ .initialise) (hl : latch s = { s with maddr := a, mmask := m, mval := v }) :
    P (Machine.issueTransaction op latch s) := by
  unfold Machine.issueTransaction
  cases hf : s.fault with
  | some f => simpa using h
  | none =>
    simp only [Option.isSome_none, Bool.false_eq_true, if_false]
    cases hm : s.mop with
    | some r => exact K.reentry s op r h hf hm
    | none =>
      simp only [hl]
      exact K.run (K.start s _ _ a m v h hf hm fun h => absurd h hop)

/-- Every instruction keeps `P`. -/
theorem Kept.exec (K : Kept P) {i : Instr} {s t : State} (h : P s) (he : Machine.exec i s = .next t) : P t := by
  cases i <;> simp only [Machine.exec] at he
  case configure c => cases he; exact K.issuePrimitive h fun h1 h2 h3 => K.configure s c h h1 h2 (h3 rfl)
  case enable => cases he; exact K.issuePrimitive h fun h1 h2 h3 => K.enable s h h1 h2 (h3 rfl)
  case disable => cases he; exact K.issuePrimitive h fun h1 h2 h3 => K.disable s h h1 h2 (h3 rfl)
  case transmitReady => cases he; exact K.issuePrimitive h fun h1 h2 _ => K.query s _ _ h h1 h2
  case receiveReady => cases he; exact K.issuePrimitive h fun h1 h2 _ => K.query s _ _ h h1 h2
  case busy => cases he; exact K.issuePrimitive h fun h1 h2 _ => K.query s _ _ h h1 h2
  case write b => cases he; exact K.issuePrimitive h fun h1 h2 h3 => K.write s b h h1 h2 (h3 rfl)
  case read => cases he; exact K.issuePrimitive h fun h1 h2 h3 => K.read s h h1 h2 (h3 rfl)
  case initialise => cases he; exact K.issueOperation (a := s.maddr) (m := s.mmask) (v := s.mval) h rfl
  case readRegister a => cases he; exact K.issueOperation (m := s.mmask) (v := s.mval) h rfl
  case writeRegister a v => cases he; exact K.issueOperation (m := s.mmask) h rfl
  case setBits a m => cases he; exact K.issueOperation (v := s.mval) h rfl
  case setFieldValue a m v =>
    unfold execSetFieldValue at he
    split at he
    · next hs =>
      cases he
      simp only [strayCheck, Bool.and_eq_true, Option.isNone_iff_eq_none] at hs
      exact K.stray s m v h hs.1.1.1
    · cases he; exact K.issueOperation h rfl
  case getBits a m => cases he; exact K.issueOperation (v := s.mval) h rfl
  case getAxisValue ax => cases he; exact K.issueOperation (m := s.mmask) (v := s.mval) h rfl
  case getTemperature => cases he; exact K.issueOperation (m := s.mmask) (v := s.mval) h rfl
  case readRegisterWire a => cases he; exact K.issueTransaction (m := s.mmask) (v := s.mval) h (by decide) rfl
  case writeRegisterWire a v => cases he; exact K.issueTransaction (m := s.mmask) h (by decide) rfl

/-- Every step keeps `P`, the reset aside, which is to be said to keep it where it is the turn that comes. -/
theorem Kept.step (K : Kept P) {s t : State} (h : P s) (hreset : ∀ ts, s.sched = .reset :: ts →
    P (blockReset { s with sched := ts })) (hs : Machine.step s = .next t) : P t := by
  have word : ∀ (w : PortWord) (x u : State), P x → issueWord w x = .next u → P u := by
    intro w x u hx hu
    unfold issueWord at hu
    split at hu
    · exact K.exec hx hu
    · split at hu
      · cases hu
        unfold illegalWord
        cases hf : x.fault with
        | some f => simpa using hx
        | none => exact K.illegal x _ hx hf
      · split at hu <;> cases hu
        exact hx
  have host : ∀ x u : State, P x → hostTurn x = .next u → P u := by
    intro x u hx hu
    unfold hostTurn takeWord at hu
    cases hp : x.program with
    | nil => simp only [hp] at hu; cases hu; exact hx
    | cons w ws => simp only [hp] at hu; exact word w _ u (K.program x ws hx) hu
  have turn : ∀ (u : Turn) (x : State), P x → (u = .reset → P (blockReset x)) →
      Machine.step s = (match (some (u, x) : Option (Turn × State)) with
        | some (.host, t) => hostTurn t
        | some (.sequencer, t) => .next (agentStep .sequencer t)
        | some (.load, t) => .next (agentStep .load t)
        | some (.xfer, t) => .next (agentStep .xfer t)
        | some (.drain, t) => .next (agentStep .drain t)
        | some (.reset, t) => .next (blockReset t)
        | none => .next s) → P t := by
    intro u x hx hr he
    rw [he] at hs
    cases u <;> simp only at hs
    · exact host x t hx hs
    all_goals cases hs
    · exact K.agent _ x hx
    · exact K.agent _ x hx
    · exact K.agent _ x hx
    · exact K.agent _ x hx
    · exact hr rfl
  cases hsc : s.sched with
  | cons u ts =>
    exact turn u { s with sched := ts } (K.sched s ts h) (fun hu => hreset ts (by rw [hsc, hu]))
      (by simp only [Machine.step, takeTurn, hsc] <;> rfl)
  | nil =>
    cases hd : defaultTurn s with
    | none => simp only [Machine.step, takeTurn, hsc, hd, Option.map_none] at hs; cases hs; exact h
    | some u =>
      refine turn u s h (fun hu => ?_) (by simp only [Machine.step, takeTurn, hsc, hd, Option.map_some] <;> rfl)
      subst hu
      unfold defaultTurn at hd
      repeat (first | (split at hd; · simp at hd) | simp at hd)

end Sys2Proof.Laws
end

