-- ==== Sys2Proof/Laws/Transaction.lean ====
section
/-! SUPPORT. The course of one transaction (41 R162 to R167, R171): its ten stages, each left only by the one agent it
waits for, from the issue to chip-select high again. -/

namespace Sys2Proof.Laws

open Sys2Proof.Machine

/-- A transaction can begin in `s`: its operation is in progress, no fault, the link idle, and the operation's next
transaction is the one named. -/
structure CanBegin (op : Op) (d : Bool) (a : Addr7) (v : Byte) (s : State) : Prop where
  fault : s.fault = none
  mop : s.mop = some op
  notInit : op ≠ .initialise
  next : nextTransaction op s = some (d, a, v)
  link : LinkIdle s

/-- The answers of the two frames. -/
abbrev firstAnswer (s : State) : Byte := Config.draw s.draws

/-- The slave while it is selected. -/
def slaveAt (p : SlavePhase) (sl : Slave) : Slave := { sl with phase := p }

/-- The slave after the data frame. -/
def slaveDone (d : Bool) (a : Addr7) (v : Byte) (sl : Slave) : Slave :=
  slaveAt .done (if d then sl else slaveWriteValue sl a v)

/-- The trace after the first `n` events of the transaction. -/
def traceAfter (n : Nat) (d : Bool) (a : Addr7) (v : Byte) (s : State) : List Event :=
  s.trace ++ (transactionEvents d a v (firstAnswer s) (dataAnswer d a s)).take n

/-- After T1. -/
def afterT1 (d : Bool) (a : Addr7) (v : Byte) (s : State) (b : Bool) : State :=
  { s with
    bsy := b, dir := d, addr := a, wdata := if d then s.wdata else v, csN := false
    slave := slaveAt .awaitAddr s.slave, trace := traceAfter 2 d a v s, phase := .p2 }

/-- After T2. -/
def afterT2 (d : Bool) (a : Addr7) (v : Byte) (s : State) (b : Bool) : State :=
  { afterT1 d a v s b with
    txBuf := some (addressByte d a), trace := traceAfter 3 d a v s, phase := .p3 }

/-- After the first S-LOAD. -/
def afterLoad1 (d : Bool) (a : Addr7) (v : Byte) (s : State) : State :=
  { afterT2 d a v s true with
    txBuf := none, shift := addressByte d a, shiftAct := true, wireCfg := requiredWire }

/-- After the first S-XFER. -/
def afterXfer1 (d : Bool) (a : Addr7) (v : Byte) (s : State) (b : Bool) : State :=
  { afterLoad1 d a v s with
    bsy := b, shiftAct := false, rxBuf := some (firstAnswer s), slave := slaveAt (.awaitData d a) s.slave
    draws := s.draws + 1, trace := traceAfter 4 d a v s }

/-- After T3. -/
def afterT3 (d : Bool) (a : Addr7) (v : Byte) (s : State) (b : Bool) : State :=
  { afterXfer1 d a v s b with rxBuf := none, trace := traceAfter 5 d a v s, phase := .p4 }

/-- After T4. -/
def afterT4 (d : Bool) (a : Addr7) (v : Byte) (s : State) (b : Bool) : State :=
  { afterT3 d a v s b with
    txBuf := some (secondFrame d v), trace := traceAfter 6 d a v s, phase := .p5 }

/-- After the second S-LOAD. -/
def afterLoad2 (d : Bool) (a : Addr7) (v : Byte) (s : State) : State :=
  { afterT4 d a v s true with txBuf := none, shift := secondFrame d v, shiftAct := true }

/-- After the second S-XFER. -/
def afterXfer2 (d : Bool) (a : Addr7) (v : Byte) (s : State) (b : Bool) : State :=
  { afterLoad2 d a v s with
    bsy := b, shiftAct := false, rxBuf := some (dataAnswer d a s), slave := slaveDone d a v s.slave
    draws := s.draws + 2, trace := traceAfter 7 d a v s }

/-- After T5. -/
def afterT5 (d : Bool) (a : Addr7) (v : Byte) (s : State) (b : Bool) : State :=
  { afterXfer2 d a v s b with
    rxBuf := none, capt := dataAnswer d a s, trace := traceAfter 8 d a v s, phase := .p6 }

/-- After T6: the transaction has returned. -/
def afterT6 (op : Op) (d : Bool) (a : Addr7) (v : Byte) (s : State) (b : Bool) : State :=
  { transacted d a v s with
    bsy := b
    mstage := s.mstage + 1
    mtmp := if keepsFirstByte op && s.mstage == 0 then dataAnswer d a s else s.mtmp }

/-- The stages of one transaction. -/
def txStage (op : Op) (d : Bool) (a : Addr7) (v : Byte) (s : State) : Nat → Bool → State
  | 0, b => { s with bsy := b }
  | 1, b => afterT1 d a v s b
  | 2, b => afterT2 d a v s b
  | 3, _ => afterLoad1 d a v s
  | 4, b => afterXfer1 d a v s b
  | 5, b => afterT3 d a v s b
  | 6, b => afterT4 d a v s b
  | 7, _ => afterLoad2 d a v s
  | 8, b => afterXfer2 d a v s b
  | 9, b => afterT5 d a v s b
  | _, b => afterT6 op d a v s b

/-- The agent each stage waits for. -/
def txNeed : Nat → Turn
  | 2 => .load
  | 3 => .xfer
  | 6 => .load
  | 7 => .xfer
  | _ => .sequencer

/-! ### The frame a slave reads from an address byte -/

@[simp] theorem directionOf_addressByte (d : Bool) (a : Addr7) : directionOf (addressByte d a) = d := by
  revert d a; decide

@[simp] theorem addressOf_addressByte (d : Bool) (a : Addr7) : addressOf (addressByte d a) = a := by
  revert d a; decide

@[simp] theorem slaveReadValue_phase (p : SlavePhase) (sl : Slave) (a : Addr7) (n : Nat) :
    slaveReadValue { sl with phase := p } a n = slaveReadValue sl a n := rfl

@[simp] theorem slaveWriteValue_phase (p : SlavePhase) (sl : Slave) (a : Addr7) (v : Byte) :
    slaveWriteValue { sl with phase := p } a v = { slaveWriteValue sl a v with phase := p } := by
  unfold slaveWriteValue
  cases h : sl.kind <;> simp [h]

theorem slaveAt_self {p : SlavePhase} {sl : Slave} (h : sl.phase = p) : slaveAt p sl = sl := by
  subst h; rfl

/-! ### Each stage -/

/-- S-DRAIN changes `BSY` alone, and only where no frame is under way. -/
theorem drain_bsy (s : State) : ∃ b', agentStep .drain s = { s with bsy := b' } ∧ (s.shiftAct = true → b' = s.bsy) := by
  by_cases h : drainEnabled s = true
  · refine ⟨false, by rw [agentStep_drain h]; rfl, fun hs => ?_⟩
    simp [drainEnabled, hs] at h
  · exact ⟨s.bsy, by rw [agentStep_held (by simpa [agentEnabled] using h)], fun _ => rfl⟩

variable {op : Op} {d : Bool} {a : Addr7} {v : Byte} {s : State}

theorem currentWire_initCfg (h : s.cfg = initCfg) : currentWire s = requiredWire := by
  simp [currentWire, h, initCfg, requiredWire, State.lineMode]

theorem CanBegin.running (C : CanBegin op d a v s) : ∀ k b, k < 10 → (txStage op d a v s k b).running = true := by
  obtain ⟨hf, hm, _, _, _⟩ := C
  intro k b hk
  interval_cases k <;>
    simp [txStage, State.running, afterT1, afterT2, afterLoad1, afterXfer1, afterT3, afterT4, afterLoad2, afterXfer2,
      afterT5, hf, hm]

theorem CanBegin.move0 (C : CanBegin op d a v s) (b : Bool) :
    agentStep .sequencer { s with bsy := b } = afterT1 d a v s b := by
  obtain ⟨hf, hm, hi, hn, hph, hen, hcfg, hclk, hcs, htx, hact, hrx, hsl⟩ := C
  have hn' : nextTransaction op { s with bsy := b } = some (d, a, v) := by
    rw [← hn]; cases op <;> rfl
  rw [agentStep_sequencer (by simp [sequencerEnabled, hf, hm, hph])]
  have hstep : sequencerStep { s with bsy := b } = settle { s with bsy := b } (t1 d a v { s with bsy := b }) := by
    simp only [sequencerStep, hm, hph, idleStep]
    cases op <;> simp_all
  rw [hstep]
  cases hcsn : s.csN
  · simp [t1, csAssert, hcs, collabCall, emit, Except.map, afterT1, traceAfter, transactionEvents,
      slaveAt_self (hsl hcsn)]
  · simp [t1, csAssert, hcs, collabCall, emit, Except.map, afterT1, traceAfter, transactionEvents,
      slaveSelect, slaveAt]

theorem CanBegin.move1 (C : CanBegin op d a v s) (b : Bool) :
    agentStep .sequencer (afterT1 d a v s b) = afterT2 d a v s b := by
  obtain ⟨hf, hm, hi, hn, hph, hen, hcfg, hclk, hcs, htx, hact, hrx, hsl⟩ := C
  rw [agentStep_sequencer (by simp [sequencerEnabled, afterT1, hf, hm, State.txe, htx])]
  simp [sequencerStep, afterT2, afterT1, hm, t2, primWrite, clocked, hclk, hen, hcfg, admittedCfg, initCfg, htx, emit,
    Except.map, traceAfter, transactionEvents]

theorem CanBegin.move2 (C : CanBegin op d a v s) (b : Bool) :
    agentStep .load (afterT2 d a v s b) = afterLoad1 d a v s := by
  obtain ⟨hf, hm, hi, hn, hph, hen, hcfg, hclk, hcs, htx, hact, hrx, hsl⟩ := C
  rw [agentStep_load (by simp [loadEnabled, afterT2, afterT1, hf, hen, State.txe, hact])]
  have hw : currentWire (afterT2 d a v s b) = requiredWire := currentWire_initCfg hcfg
  simp [loadStep, hw, afterLoad1]
  simp [afterT2, afterT1]

theorem CanBegin.move3 (C : CanBegin op d a v s) :
    agentStep .xfer (afterLoad1 d a v s) = afterXfer1 d a v s true := by
  obtain ⟨hf, hm, hi, hn, hph, hen, hcfg, hclk, hcs, htx, hact, hrx, hsl⟩ := C
  rw [agentStep_xfer (by simp [xferEnabled, afterLoad1, afterT2, afterT1, hf])]
  simp [xferStep, linkExchange, State.selected, slaveFrame, afterXfer1, afterLoad1, afterT2, afterT1, hcs, hrx, emit,
    slaveAt, traceAfter, transactionEvents]

theorem CanBegin.move4 (C : CanBegin op d a v s) (b : Bool) :
    agentStep .sequencer (afterXfer1 d a v s b) = afterT3 d a v s b := by
  obtain ⟨hf, hm, hi, hn, hph, hen, hcfg, hclk, hcs, htx, hact, hrx, hsl⟩ := C
  rw [agentStep_sequencer (by
    simp [sequencerEnabled, afterXfer1, afterLoad1, afterT2, hf, afterT1, hm, State.rxne])]
  simp [sequencerStep, afterT3, afterXfer1, afterLoad1, afterT2, afterT1, hm, t3, primRead, clocked, hclk, emit,
    Except.map, traceAfter, transactionEvents]

theorem CanBegin.move5 (C : CanBegin op d a v s) (b : Bool) :
    agentStep .sequencer (afterT3 d a v s b) = afterT4 d a v s b := by
  obtain ⟨hf, hm, hi, hn, hph, hen, hcfg, hclk, hcs, htx, hact, hrx, hsl⟩ := C
  rw [agentStep_sequencer (by
    simp [sequencerEnabled, afterT3, afterXfer1, afterLoad1, afterT2, hf, afterT1, hm, State.txe])]
  simp [sequencerStep, afterT4, afterT3, afterXfer1, afterLoad1, afterT2, afterT1, hm, t4, primWrite, clocked, hclk,
    hen, hcfg, admittedCfg, initCfg, emit, Except.map, traceAfter, transactionEvents, secondFrame]
  cases d <;> simp

theorem CanBegin.move6 (C : CanBegin op d a v s) (b : Bool) :
    agentStep .load (afterT4 d a v s b) = afterLoad2 d a v s := by
  obtain ⟨hf, hm, hi, hn, hph, hen, hcfg, hclk, hcs, htx, hact, hrx, hsl⟩ := C
  rw [agentStep_load (by
    simp [loadEnabled, afterT4, afterT3, afterXfer1, afterLoad1, afterT2, afterT1, hf, hen, State.txe])]
  have hw : currentWire (afterT4 d a v s b) = requiredWire := currentWire_initCfg hcfg
  simp [loadStep, hw, afterLoad2]
  simp [afterT4, afterT3, afterXfer1, afterLoad1, afterT2, afterT1]

theorem CanBegin.move7 (C : CanBegin op d a v s) :
    agentStep .xfer (afterLoad2 d a v s) = afterXfer2 d a v s true := by
  obtain ⟨hf, hm, hi, hn, hph, hen, hcfg, hclk, hcs, htx, hact, hrx, hsl⟩ := C
  rw [agentStep_xfer (by
    simp [xferEnabled, afterLoad2, afterT4, afterT3, afterXfer1, afterLoad1, afterT2, afterT1, hf])]
  cases d <;>
  simp [xferStep, linkExchange, State.selected, slaveFrame, afterXfer2, afterLoad2, afterT4, afterT3, afterXfer1,
    afterLoad1, afterT2, afterT1, hcs, emit, slaveAt, slaveDone, dataAnswer, traceAfter, transactionEvents,
    secondFrame]

theorem CanBegin.move8 (C : CanBegin op d a v s) (b : Bool) :
    agentStep .sequencer (afterXfer2 d a v s b) = afterT5 d a v s b := by
  obtain ⟨hf, hm, hi, hn, hph, hen, hcfg, hclk, hcs, htx, hact, hrx, hsl⟩ := C
  rw [agentStep_sequencer (by
    simp [sequencerEnabled, afterXfer2, afterLoad2, afterT4, afterT3, afterXfer1, afterLoad1, afterT2, hf, afterT1, hm,
      State.rxne])]
  simp [sequencerStep, afterT5, afterXfer2, afterLoad2, afterT4, afterT3, afterXfer1, afterLoad1, afterT2, afterT1, hm,
    t5, primRead, clocked, hclk, emit, Except.map, traceAfter, transactionEvents]

theorem CanBegin.move9 (C : CanBegin op d a v s) (b : Bool) :
    agentStep .sequencer (afterT5 d a v s b) = afterT6 op d a v s b := by
  obtain ⟨hf, hm, hi, hn, hph, hen, hcfg, hclk, hcs, htx, hact, hrx, hsl⟩ := C
  rw [agentStep_sequencer (by
    simp [sequencerEnabled, afterT5, afterXfer2, afterLoad2, afterT4, afterT3, afterXfer1, afterLoad1, afterT2, hf,
      afterT1, hm])]
  simp [sequencerStep, afterT6, transacted, afterT5, afterXfer2, afterLoad2, afterT4, afterT3, afterXfer1, afterLoad1,
    afterT2, afterT1, hm, t6, csDeassert, hcs, collabCall, emit, Except.map, traceAfter, transactionEvents, slaveAfter,
    slaveDeselect, slaveDone, slaveAt, htx, hact, hrx, hph]
  cases d <;> simp

/-- The agent a stage waits for moves it to the next. -/
theorem CanBegin.move (C : CanBegin op d a v s) (k : Nat) (b : Bool) (hk : k < 10) :
    ∃ b', agentStep (txNeed k) (txStage op d a v s k b) = txStage op d a v s (k + 1) b' := by
  interval_cases k
  · exact ⟨b, C.move0 b⟩
  · exact ⟨b, C.move1 b⟩
  · exact ⟨b, C.move2 b⟩
  · exact ⟨true, C.move3⟩
  · exact ⟨b, C.move4 b⟩
  · exact ⟨b, C.move5 b⟩
  · exact ⟨b, C.move6 b⟩
  · exact ⟨true, C.move7⟩
  · exact ⟨b, C.move8 b⟩
  · exact ⟨b, C.move9 b⟩

/-- An agent a stage does not wait for, other than S-DRAIN, is not enabled in it. -/
theorem CanBegin.held (C : CanBegin op d a v s) (k : Nat) (b : Bool) (t : Turn) (hk : k < 10)
    (ht : t ≠ txNeed k) (hd : t ≠ .drain) : agentEnabled t (txStage op d a v s k b) = false := by
  obtain ⟨hf, hm, hi, hn, hph, hen, hcfg, hclk, hcs, htx, hact, hrx, hsl⟩ := C
  interval_cases k <;> cases t <;>
    simp_all [txNeed, agentEnabled, txStage, sequencerEnabled, loadEnabled, xferEnabled, State.txe, State.rxne, afterT1,
      afterT2, afterLoad1, afterXfer1, afterT3, afterT4, afterLoad2, afterXfer2, afterT5]

/-- S-DRAIN leaves every stage as it is, `BSY` aside. -/
theorem CanBegin.drained (k : Nat) (b : Bool) :
    ∃ b', agentStep .drain (txStage op d a v s k b) = txStage op d a v s k b' := by
  obtain ⟨b', hb, hb'⟩ := drain_bsy (txStage op d a v s k b)
  refine ⟨b', hb.trans ?_⟩
  match k with
  | 0 | 1 | 2 | 4 | 5 | 6 | 8 | 9 => rfl
  | 3 => have := hb' rfl; subst this; rfl
  | 7 => have := hb' rfl; subst this; rfl
  | k + 10 => rfl

/-- Every stage but the last is left by the agent it waits for and by nothing else. -/
theorem CanBegin.moves (C : CanBegin op d a v s) (k : Nat) (b : Bool) (t : Turn) (hk : k < 10) :
    ∃ b', agentStep t (txStage op d a v s k b) = txStage op d a v s (if t = txNeed k then k + 1 else k) b' := by
  by_cases ht : t = txNeed k
  · rw [if_pos ht, ht]; exact C.move k b hk
  · rw [if_neg ht]
    by_cases hd : t = .drain
    · subst hd; exact CanBegin.drained k b
    · exact ⟨b, agentStep_held (C.held k b t hk ht hd)⟩

end Sys2Proof.Laws
end

