-- ==== Sys2Proof/Laws/Operations.lean ====
section
/-! SUPPORT. What the run of an operation of one or of two transactions ends in, under every schedule of the agents
with a fair link (30 R106, 42 R206). -/

namespace Sys2Proof.Laws

open Sys2Proof.Machine

variable {op : Op} {d d' : Bool} {a a' : Addr7} {v v' : Byte} {s : State}

/-- The operation's transactions are done in `s`: its next step is its return. -/
structure CanReturn (op : Op) (s : State) : Prop where
  fault : s.fault = none
  mop : s.mop = some op
  notInit : op ≠ .initialise
  next : nextTransaction op s = none
  phase : s.phase = .idle
  act : s.shiftAct = false
  tx : s.txBuf = none

/-- The return leaves the operation with no step to take. -/
theorem CanReturn.move (C : CanReturn op s) : agentStep .sequencer s = returnStep op s := by
  obtain ⟨hf, hm, hi, hn, hph, _, _⟩ := C
  rw [agentStep_sequencer (by simp [sequencerEnabled, hf, hm, hph])]
  simp only [sequencerStep, hm, hph, idleStep]
  cases op <;> simp_all

theorem CanReturn.held (C : CanReturn op s) {t : Turn} (ht : t ≠ .sequencer) (hd : t ≠ .drain) :
    agentEnabled t s = false := by
  obtain ⟨hf, hm, hi, hn, hph, hact, htx⟩ := C
  cases t <;> simp_all [agentEnabled, loadEnabled, xferEnabled, State.txe]

theorem CanReturn.bsy {b : Bool} (C : CanReturn op s) : CanReturn op { s with bsy := b } := by
  obtain ⟨hf, hm, hi, hn, hph, hact, htx⟩ := C
  refine ⟨hf, hm, hi, ?_, hph, hact, htx⟩
  rw [← hn]
  cases op <;> rfl

theorem txStage_linkFair (k : Nat) (b : Bool) : (txStage op d a v s k b).linkFair = s.linkFair := by
  match k with
  | 0 | 1 | 2 | 3 | 4 | 5 | 6 | 7 | 8 | 9 => rfl
  | k + 10 => rfl

/-! ### One transaction -/

/-- The stages of an operation of one transaction: the transaction's, then the return. -/
def oneStage (op : Op) (d : Bool) (a : Addr7) (v : Byte) (s : State) (k : Nat) (b : Bool) : State :=
  if k < 11 then txStage op d a v s k b else returnStep op (afterT6 op d a v s b)

theorem oneStage_linkFair (k : Nat) (b : Bool) : (oneStage op d a v s k b).linkFair = s.linkFair := by
  unfold oneStage
  split
  · exact txStage_linkFair k b
  · rfl

theorem txNeed_fair (k : Nat) : txNeed k ∈ fairRound := by
  match k with
  | 2 | 3 | 6 | 7 => decide
  | 0 | 1 | 4 | 5 => decide
  | k + 8 => show Turn.sequencer ∈ fairRound; decide

theorem oneCourse (C : CanBegin op d a v s) (R : ∀ b, CanReturn op (afterT6 op d a v s b)) :
    Course (oneStage op d a v s) txNeed 11 where
  runs k b hk := by
    by_cases h : k < 10
    · simpa [oneStage, hk] using C.running k b h
    · obtain rfl : k = 10 := by omega
      simp [oneStage, txStage, State.running, (R b).fault, (R b).mop]
  ends b := by simp [oneStage, returnStep, State.running]
  moves k b t hk _ := by
    by_cases h : k < 10
    · obtain ⟨b', hb⟩ := C.moves k b t h
      refine ⟨b', ?_⟩
      simp only [oneStage, hk, if_true, hb]
      split <;> simp_all
    · obtain rfl : k = 10 := by omega
      by_cases ht : t = txNeed 10
      · subst ht
        exact ⟨b, by simpa [oneStage, txStage, txNeed] using (R b).move⟩
      · by_cases hd : t = .drain
        · subst hd
          obtain ⟨b', hb⟩ := CanBegin.drained (op := op) (d := d) (a := a) (v := v) (s := s) 10 b
          exact ⟨b', by simpa [oneStage, ht] using hb⟩
        · exact ⟨b, by simpa [oneStage, ht, txStage] using agentStep_held ((R b).held ht hd)⟩

/-- The run of an operation of one transaction: the transaction's effect, then the return. -/
theorem run_one (C : CanBegin op d a v s) (R : ∀ b, CanReturn op (afterT6 op d a v s b)) (hl : LinkFair s) :
    ∃ b ts, ts <:+ s.sched ∧
      runOperation s = { returnStep op (afterT6 op d a v s b) with sched := ts } := by
  have h := (oneCourse C R).runOperation (by omega) (k := 0) (b := s.bsy) (by omega) hl.2
    (fun j _ => by
      rw [oneStage_linkFair, hl.1]; exact txNeed_fair j)
    (fun j b' => by rw [oneStage_linkFair, oneStage_linkFair])
  obtain ⟨b', ts, he, hs⟩ := h
  exact ⟨b', ts, hs, he⟩

/-! ### Two transactions -/

/-- The stages of an operation of two transactions. The second begins where the first has returned. -/
def twoStage (op : Op) (d : Bool) (a : Addr7) (v : Byte) (d' : Bool) (a' : Addr7) (v' : Byte) (s : State) (k : Nat)
    (b : Bool) : State :=
  if k < 10 then txStage op d a v s k b else oneStage op d' a' v' (afterT6 op d a v s false) (k - 10) b

theorem twoStage_linkFair (k : Nat) (b : Bool) :
    (twoStage op d a v d' a' v' s k b).linkFair = s.linkFair := by
  unfold twoStage
  split
  · exact txStage_linkFair k b
  · exact oneStage_linkFair _ b

/-- The agent each stage of two transactions waits for. -/
def twoNeed (k : Nat) : Turn := if k < 10 then txNeed k else txNeed (k - 10)

theorem twoNeed_fair (k : Nat) : twoNeed k ∈ fairRound := by
  unfold twoNeed
  split <;> exact txNeed_fair _

theorem twoCourse (C : CanBegin op d a v s) (C' : CanBegin op d' a' v' (afterT6 op d a v s false))
    (R : ∀ b, CanReturn op (afterT6 op d' a' v' (afterT6 op d a v s false) b)) :
    Course (twoStage op d a v d' a' v' s) twoNeed 21 where
  runs k b hk := by
    by_cases h : k < 10
    · simpa [twoStage, h] using C.running k b h
    · simpa [twoStage, h] using (oneCourse C' R).runs (k - 10) b (by omega)
  ends b := by simpa [twoStage] using (oneCourse C' R).ends b
  moves k b t hk ht := by
    by_cases h : k < 10
    · obtain ⟨b', hb⟩ := C.moves k b t h
      refine ⟨b', ?_⟩
      simp only [twoStage, h, if_true, hb, twoNeed]
      by_cases htn : t = txNeed k
      · simp only [htn, if_true]
        by_cases h9 : k = 9
        · subst h9; rfl
        · have : k + 1 < 10 := by omega
          simp [this]
      · simp [htn, h]
    · obtain ⟨b', hb⟩ := (oneCourse C' R).moves (k - 10) b t (by omega) ht
      refine ⟨b', ?_⟩
      simp only [twoStage, h, if_false, hb, twoNeed]
      by_cases htn : t = txNeed (k - 10)
      · have h1 : ¬ k + 1 < 10 := by omega
        have h2 : k + 1 - 10 = k - 10 + 1 := by omega
        simp [htn, h1, h2]
      · simp [htn, h]

/-- The run of an operation of two transactions: the effect of the first, of the second, then the return. -/
theorem run_two (C : CanBegin op d a v s) (C' : CanBegin op d' a' v' (afterT6 op d a v s false))
    (R : ∀ b, CanReturn op (afterT6 op d' a' v' (afterT6 op d a v s false) b)) (hl : LinkFair s) :
    ∃ b ts, ts <:+ s.sched ∧
      runOperation s = { returnStep op (afterT6 op d' a' v' (afterT6 op d a v s false) b) with sched := ts } := by
  have h := (twoCourse C C' R).runOperation (by omega) (k := 0) (b := s.bsy) (by omega) hl.2
    (fun j _ => by
      rw [twoStage_linkFair, hl.1]; exact twoNeed_fair j)
    (fun j b' => by rw [twoStage_linkFair, twoStage_linkFair])
  obtain ⟨b', ts, he, hs⟩ := h
  exact ⟨b', ts, hs, he⟩

/-- A link that has carried one transaction is idle for the next. -/
theorem linkIdle_afterT6 (h : LinkIdle s) (b : Bool) : LinkIdle (afterT6 op d a v s b) := by
  obtain ⟨hph, hen, hcfg, hclk, hcs, htx, hact, hrx, hsl⟩ := h
  exact ⟨hph, hen, hcfg, hclk, hcs, htx, hact, hrx, fun h => by simp [afterT6, transacted] at h⟩

end Sys2Proof.Laws
end

