-- ==== Sys2Proof/Laws/PerInstr.lean ====
section
/-! SUPPORT. One lemma per instruction: its encoded word matches its own row of the match and mask table (30 R100,
R92). -/

namespace Sys2Proof.Laws.RowMatch

/-- The word of an instruction selects the instruction's row: `w & mask = match`. -/
def Statement (i : Instr) : Prop := matchesRow (encode i) (rowOf i) = true

theorem enable : Statement .enable := by unfold Statement; rfl
theorem disable : Statement .disable := by unfold Statement; rfl
theorem transmitReady : Statement .transmitReady := by unfold Statement; rfl
theorem receiveReady : Statement .receiveReady := by unfold Statement; rfl
theorem busy : Statement .busy := by unfold Statement; rfl
theorem read : Statement .read := by unfold Statement; rfl
theorem initialise : Statement .initialise := by unfold Statement; rfl
theorem getTemperature : Statement .getTemperature := by unfold Statement; rfl

/-- Bit by bit: the masked word of an operation with the given fields is the masked word of its operation code. -/
theorem of_bits {w mask pattern : Word32} (h : ∀ i, i < 32 → (w &&& mask).getLsbD i = pattern.getLsbD i) :
    (w &&& mask == pattern) = true := by
  simp only [beq_iff_eq]
  exact BitVec.eq_of_getLsbD_eq h

theorem configure (c : Cfg) : Statement (.configure c) := by
  refine of_bits fun i hi => ?_
  simp only [controlImage, BitVec.getLsbD_append, BitVec.getLsbD_and]
  interval_cases i <;> simp

theorem write (b : Byte) : Statement (.write b) := by
  refine of_bits fun i hi => ?_
  simp only [packFields, BitVec.getLsbD_append, BitVec.getLsbD_and]
  interval_cases i <;> simp

theorem readRegister (a : Addr7) : Statement (.readRegister a) := by
  refine of_bits fun i hi => ?_
  simp only [packFields, BitVec.getLsbD_append, BitVec.getLsbD_and]
  interval_cases i <;> simp

theorem writeRegister (a : Addr7) (v : Byte) : Statement (.writeRegister a v) := by
  refine of_bits fun i hi => ?_
  simp only [packFields, BitVec.getLsbD_append, BitVec.getLsbD_and]
  interval_cases i <;> simp

theorem setBits (a : Addr7) (m : Byte) : Statement (.setBits a m) := by
  refine of_bits fun i hi => ?_
  simp only [packFields, BitVec.getLsbD_append, BitVec.getLsbD_and]
  interval_cases i <;> simp

theorem setFieldValue (a : Addr7) (m v : Byte) : Statement (.setFieldValue a m v) := by
  refine of_bits fun i hi => ?_
  simp only [packFields, BitVec.getLsbD_append, BitVec.getLsbD_and]
  interval_cases i <;> simp

theorem getBits (a : Addr7) (m : Byte) : Statement (.getBits a m) := by
  refine of_bits fun i hi => ?_
  simp only [packFields, BitVec.getLsbD_append, BitVec.getLsbD_and]
  interval_cases i <;> simp

theorem getAxisValue (ax : Axis) : Statement (.getAxisValue ax) := by
  unfold Statement
  cases ax <;> rfl

theorem readRegisterWire (a : Addr7) : Statement (.readRegisterWire a) := by
  unfold Statement
  revert a
  decide

theorem writeRegisterWire (a : Addr7) (v : Byte) : Statement (.writeRegisterWire a v) := by
  simp only [Statement, encode, rowOf, matchesRow, beq_iff_eq]
  apply BitVec.eq_of_getLsbD_eq
  intro i hi
  simp only [wirePattern, BitVec.getLsbD_append, BitVec.getLsbD_and]
  interval_cases i <;> simp

end Sys2Proof.Laws.RowMatch
end

