-- ==== Sys2Proof/Tests/Slice0.lean ====
section
/-! SUPPORT. Tests of the model against the spec's worked values (95_test_vectors.md), the smoke tests of the
well-formedness checks, words written out bit by bit from the encodings of 30, and a witness for the hypotheses of every
statement. -/

namespace Sys2Proof.Tests

open Sys2Proof.Machine

/-! ### Small states -/

/-- What a check says of the state an outcome gives; false of a fault or a refusal. -/
def after (o : Host.Outcome State Fault Refusal) (check : State → Bool) : Bool :=
  match o with
  | .next t => check t
  | _ => false

/-- `S_spim` of 95: clock and pins set up, SPIM alone. -/
def spim : State := { State.reset with spiClk := true, pinsAf := true }

/-- SPIM configured as `initialize` does it, and enabled. -/
def spimOn : State := { spim with cfg := initCfg, cfgValid := true, en := true }

/-- `S_init` of 95: right after `initialize`, with one register preset. -/
def afterInit (a : Nat) (v : Byte) : State :=
  { spimOn with
    csClk := true, csDrv := true, csN := false, initDone := true
    slave := { phase := .awaitAddr, kind := .echo, regs := [(a, v)], device := 0 } }

/-- `S_idle` of 95: after a completed transaction. -/
def idle (a : Nat) (v : Byte) : State :=
  { afterInit a v with
    csN := true, slave := { phase := .desel, kind := .echo, regs := [(a, v)], device := 0 } }

/-- The Bytes written to `TXBUF`, in order. -/
def sent (s : State) : List Byte :=
  s.trace.filterMap fun e => match e with
    | .tx b => some b
    | _ => none

/-! ### Well-formedness: each check refuses an ill-formed operand -/

theorem test_wf_good : (Instr.configure initCfg).wellFormed = true := by decide
theorem test_wf_frameWidth : (Instr.configure { initCfg with frameWidth := 7 }).wellFormed = false := by decide
theorem test_wf_divisor_3 : (Instr.configure { initCfg with baudDivisor := 3 }).wellFormed = false := by decide
theorem test_wf_divisor_512 : (Instr.configure { initCfg with baudDivisor := 512 }).wellFormed = false := by decide
theorem test_wf_divisor_256 :
    (Instr.configure { initCfg with frameWidth := 16, baudDivisor := 256 }).wellFormed = true := by decide

/-! ### Words written out from 30 R98, R94, R99, R92: operation code, `Z`, address, mask, value -/

/-- CFGIMG 0000 0011 0000 0111: SSM, SSI, MSTR, CPOL, CPHA. -/
theorem test_decode_configure :
    decodeCmd 0b00000001_00000000_00000011_00000111#32 =
      .ok (.configure ⟨.master, .msbFirst, 8, .idleHigh, .secondEdge, 2, .softwareHigh⟩) := by decide
/-- CFGIMG 0000 0010 0001 1100: SSM, BRC 3, MSTR (95 section 2.3). -/
theorem test_decode_configure_softwareLow :
    decodeCmd 0b00000001_00000000_00000010_00011100#32 =
      .ok (.configure ⟨.master, .msbFirst, 8, .idleLow, .firstEdge, 16, .softwareLow⟩) := by decide
theorem test_decode_enable : decodeCmd 0b00000010_00000000_00000000_00000000#32 = .ok .enable := by decide
theorem test_decode_disable : decodeCmd 0b00000011_00000000_00000000_00000000#32 = .ok .disable := by decide
theorem test_decode_transmitReady :
    decodeCmd 0b00000100_00000000_00000000_00000000#32 = .ok .transmitReady := by decide
theorem test_decode_receiveReady :
    decodeCmd 0b00000101_00000000_00000000_00000000#32 = .ok .receiveReady := by decide
theorem test_decode_busy : decodeCmd 0b00000110_00000000_00000000_00000000#32 = .ok .busy := by decide
theorem test_decode_write : decodeCmd 0b00000111_00000000_00000000_10100000#32 = .ok (.write 0xA0) := by decide
theorem test_decode_read : decodeCmd 0b00001000_00000000_00000000_00000000#32 = .ok .read := by decide
theorem test_decode_initialise : decodeCmd 0b00010000_00000000_00000000_00000000#32 = .ok .initialise := by decide
theorem test_decode_readRegister :
    decodeCmd 0b00010001_01111111_00000000_00000000#32 = .ok (.readRegister 0x7F) := by decide
theorem test_decode_writeRegister :
    decodeCmd 0b00010010_00100000_00000000_01010101#32 = .ok (.writeRegister 0x20 0x55) := by decide
theorem test_decode_setBits :
    decodeCmd 0b00010011_00100000_00000111_00000000#32 = .ok (.setBits 0x20 0x07) := by decide
theorem test_decode_setFieldValue :
    decodeCmd 0b00010100_00100000_11110000_01100000#32 = .ok (.setFieldValue 0x20 0xF0 0x60) := by decide
theorem test_decode_getBits :
    decodeCmd 0b00010101_00100000_11110000_00000000#32 = .ok (.getBits 0x20 0xF0) := by decide
theorem test_decode_getAxisValue :
    decodeCmd 0b00010110_00000000_00000000_00000001#32 = .ok (.getAxisValue .y) := by decide
theorem test_decode_getTemperature :
    decodeCmd 0b00010111_00000000_00000000_00000000#32 = .ok .getTemperature := by decide
theorem test_decode_readRegisterWire : decodeWire 0b1_0100000_00000000#16 = .ok (.readRegisterWire 0x20) := by decide
theorem test_decode_writeRegisterWire :
    decodeWire 0b0_1111111_11111111#16 = .ok (.writeRegisterWire 0x7F 0xFF) := by decide

/-- The illegal words of 95 section 2.4, by the field that is wrong. -/
theorem test_decode_illegal :
    decodeCmd 0x01000707 = .error .unusedFieldNotZero ∧ decodeCmd 0x01001307 = .error .unusedFieldNotZero ∧
    decodeCmd 0x01010307 = .error .unusedFieldNotZero ∧ decodeCmd 0x02000001 = .error .unusedFieldNotZero ∧
    decodeCmd 0x070001A0 = .error .unusedFieldNotZero ∧ decodeCmd 0x11200001 = .error .unusedFieldNotZero ∧
    decodeCmd 0x12205500 = .error .unusedFieldNotZero ∧ decodeCmd 0x13200701 = .error .unusedFieldNotZero ∧
    decodeCmd 0x16000004 = .error .unusedFieldNotZero ∧ decodeCmd 0x00000000 = .error .unknownOperation ∧
    decodeCmd 0x09000000 = .error .unknownOperation ∧ decodeCmd 0x0F000000 = .error .unknownOperation ∧
    decodeCmd 0xFFFFFFFF = .error .unknownOperation := by decide

/-- A wire pattern with the read bit and a second frame that is not the dummy (30 R92, log 12). -/
theorem test_decode_wire_dummy : decodeWire 0xA001 = .error .dummyNotZero := by decide

/-- The encoder writes the words of 30 R100's examples and of 95 section 2.2. -/
theorem test_encode :
    encode (.readRegister 0x20) = .cmd 0x11200000 ∧ encode (.setFieldValue 0x20 0xF0 0x60) = .cmd 0x1420F060 ∧
    encode (.configure initCfg) = .cmd 0x01000307 ∧ encode (.readRegisterWire 0x7F) = .wire 0xFF00 ∧
    encode (.writeRegisterWire 0x20 0x00) = .wire 0x2000 := by decide

/-- The images of 95 section 2.3. -/
theorem test_images :
    controlImage ⟨.slave, .lsbFirst, 16, .idleLow, .firstEdge, 256, .hardware⟩ false = 0x08B8 ∧
    controlImage { initCfg with baudDivisor := 256 } true = 0x037F ∧
    statusImage { State.reset with txBuf := some 1, bsy := true } = 0x0080 ∧
    statusImage { State.reset with rxBuf := some 1, bsy := true } = 0x0083 := by decide

/-! ### One step of each instruction (95 sections 2.5 to 2.11) -/

theorem test_configure : after (exec (.configure initCfg) spim) (fun t => t.cfgValid && controlRegister t == 0x0307) := by
  decide
/-- 95 section 2.6: `ClockOff` from reset. -/
theorem test_configure_clockOff :
    after (exec (.configure initCfg) State.reset) (fun t => t.fault == some (.clockOff .configure)) := by decide
theorem test_enable : after (exec .enable { spim with cfg := initCfg, cfgValid := true })
    (fun t => controlRegister t == 0x0347 && statusImage t == 0x0002) := by decide
theorem test_enable_unconfigured : after (exec .enable spim) (fun t => t.fault == some .enableUnconfigured && !t.en) := by
  decide
theorem test_disable : after (exec .disable spimOn) (fun t => controlRegister t == 0x0307) := by decide
theorem test_disable_in_flight : after (exec .disable { spimOn with txBuf := some 1 })
    (fun t => t.fault == some (.disableInFlight false false false) && t.en) := by decide
theorem test_transmitReady : after (exec .transmitReady spimOn) (fun t => t.result == 1) := by decide
theorem test_transmitReady_after_init : after (exec .transmitReady (afterInit 0 1))
    (fun t => t.result == 1 && t.fault == none) := by decide
theorem test_receiveReady : after (exec .receiveReady spimOn) (fun t => t.result == 0) := by decide
theorem test_busy : after (exec .busy { spimOn with bsy := true }) (fun t => t.result == 1) := by decide
theorem test_write : after (exec (.write 0xA0) spimOn) (fun t => t.txBuf == some 0xA0 && t.trace == [.tx 0xA0]) := by
  decide
theorem test_write_owned : after (exec (.write 0) (afterInit 0 1))
    (fun t => t.fault == some (.ownershipViolation .write) && t.trace == []) := by decide
theorem test_read : after (exec .read { spimOn with rxBuf := some 0x3C })
    (fun t => t.result == 0x003C && !t.rxne && t.trace == [.rx 0x3C]) := by decide
theorem test_initialise : after (exec .initialise State.reset)
    (fun t => controlRegister t == 0x0347 && t.trace == initEvents && t.initDone && t.slave.phase == .awaitAddr) := by
  decide
theorem test_initialise_twice : after (exec .initialise (afterInit 0 1))
    (fun t => t.fault == some .alreadyInitialised && t.trace == []) := by decide
theorem test_readRegister : after (exec (.readRegister 0x20) (idle 0x20 0x67))
    (fun t => t.result == 0x0067 && sent t == [0xA0, 0x00] && t.csN && t.capt == 0x67 && t.mop == none) := by decide
theorem test_readRegister_uninitialised : after (exec (.readRegister 0x20) State.reset)
    (fun t => t.fault == some (.notInitialised .readRegister) && t.trace == []) := by decide
theorem test_writeRegister : after (exec (.writeRegister 0x20 0x55) (afterInit 0x21 0x11))
    (fun t => t.slave.regs == [(0x20, 0x55), (0x21, 0x11)] && sent t == [0x20, 0x55] && t.csN) := by decide
theorem test_setBits : after (exec (.setBits 0x20 0x07) (idle 0x20 0x60))
    (fun t => t.slave.regs == [(0x20, 0x67)] && sent t == [0xA0, 0x00, 0x20, 0x67]) := by decide
theorem test_setFieldValue : after (exec (.setFieldValue 0x20 0xF0 0x60) (idle 0x20 0x17))
    (fun t => t.slave.regs == [(0x20, 0x67)] && sent t == [0xA0, 0x00, 0x20, 0x67]) := by decide
/-- 95 section 2.10, last row: the three policies on a stray bit. -/
theorem test_setFieldValue_stray :
    after (exec (.setFieldValue 0x20 0xF0 0x61) (idle 0x20 0x16))
      (fun t => t.fault == some (.strayFieldValue 0xF0 0x61) && t.slave.regs == [(0x20, 0x16)] && t.trace == []) ∧
    after (exec (.setFieldValue 0x20 0xF0 0x61) { idle 0x20 0x16 with strayPolicy := .unmasked })
      (fun t => t.slave.regs == [(0x20, 0x67)]) ∧
    after (exec (.setFieldValue 0x20 0xF0 0x61) { idle 0x20 0x16 with strayPolicy := .masked })
      (fun t => t.slave.regs == [(0x20, 0x66)]) := by decide
theorem test_getBits : after (exec (.getBits 0x20 0xF0) (idle 0x20 0x67)) (fun t => t.result == 0x0060) := by decide
theorem test_getAxisValue :
    after (exec (.getAxisValue .x)
        { idle 0 1 with slave := { phase := .desel, kind := .echo, regs := [(0x28, 0x34), (0x29, 0x12)], device := 0 } })
      (fun t => t.result == 0x1234 && sent t == [0xA8, 0x00, 0xA9, 0x00]) := by decide
theorem test_getAxisValue_z : after (exec (.getAxisValue .z) (idle 0x2D 0x80))
    (fun t => t.result == 0x8000 && sint16 t.result == -32768 && sent t == [0xAC, 0x00, 0xAD, 0x00]) := by decide
theorem test_getTemperature : after (exec .getTemperature (idle 0x0C 0xF6))
    (fun t => t.result == 0x00F6 && sent t == [0x8C, 0x00]) := by decide
theorem test_readRegisterWire : after (exec (.readRegisterWire 0x7F) (idle 0x7F 0x01))
    (fun t => sent t == [0xFF, 0x00] && t.capt == 0x01 && t.result == 0) := by decide
theorem test_writeRegisterWire : after (exec (.writeRegisterWire 0x00 0x00) (idle 0x00 0xFF))
    (fun t => sent t == [0x00, 0x00] && t.slave.regs == []) := by decide

/-! ### The shifter, the schedule and the hang -/

/-- 95 section 2.6: `RxOverrun`; `RXBUF` keeps the first Byte, the exchange is recorded. -/
theorem test_overrun :
    (agentStep .xfer { spimOn with shiftAct := true, bsy := true, rxBuf := some 0x11 }).rxBuf = some 0x11 ∧
    (agentStep .xfer { spimOn with shiftAct := true, bsy := true, rxBuf := some 0x11 }).shiftAct = true ∧
    (agentStep .xfer { spimOn with shiftAct := true, bsy := true, rxBuf := some 0x11 }).trace.length = 1 := by decide

/-- 95 section 2.12, second row: S-LOAD fires once, S-XFER never. -/
theorem test_hang :
    after (exec (.readRegister 0x20)
        { idle 0x20 0x67 with linkFair := false, sched := [.sequencer, .sequencer, .load, .sequencer] })
      (fun t => t.phase == .p3 && t.shift == 0xA0 && t.shiftAct && t.bsy && t.mop == some .readRegister && !t.csN &&
        t.fault == none) := by decide

/-- 95 program P6, last row: an operation issued before the first has returned is `Reentry`. -/
theorem test_reentry :
    after (exec (.readRegister 0x20) { idle 0x20 0x67 with sched := [.sequencer, .sequencer, .host] })
      (fun t => t.phase == .p3 && t.sched == [.host] && after (exec (.readRegister 0x21) t)
        (fun u => u.fault == some (.reentry .readRegister .readRegister) && !u.csN)) := by decide

/-- A word placed is the word the next step runs (log 13). -/
theorem test_placed : after (step ((idle 0x20 0x67).withFetchWord 32 0x11200000)) (fun t => t.result == 0x67) := by
  decide

/-- 30 R101: an illegal command word. -/
theorem test_illegal : after (step ((idle 0 1).withFetchWord 32 0x16000003))
    (fun t => t.fault == some (.illegalCommand 0x16000003)) := by decide

/-! ### Witnesses: a state and operands that meet the hypotheses of each statement, clause by clause -/

theorem witness_DecodeOfEncodeIsTheInstruction :
    (Instr.configure { initCfg with frameWidth := 16, baudDivisor := 256 }).WellFormed ∧ Instr.enable.WellFormed := by
  decide
theorem witness_EncodeOfDecodeIsTheWord :
    decode (.cmd 0x010008B8) = .ok (.configure ⟨.slave, .lsbFirst, 16, .idleLow, .firstEdge, 256, .hardware⟩) ∧
      decode (.wire 0x7FFF) = .ok (.writeRegisterWire 0x7F 0xFF) := by decide
theorem witness_StepRunsTheDecodedInstruction :
    ({ spim with sched := [.host], program := [.cmd 0x04000000] } : State).sched = [.host] ∧
    decode (.cmd 0x04000000) = .ok .transmitReady ∧
    ({ spim with program := [.cmd 0x04000000] } : State).sched = [] ∧
    defaultTurn { spim with program := [.cmd 0x04000000] } = some .host ∧
    Turn.load.isAgent = true ∧ Turn.drain.isAgent = true := by decide
theorem witness_PlacedWordRunsNext :
    decodeTableWord 32 0x17000000 = some .getTemperature ∧
      decodeTableWord 16 0x8000 = some (.readRegisterWire 0) := by decide
theorem witness_IllegalWordIsRecorded :
    spim.fault = none ∧ ({ spim with sched := [.host] } : State).sched = [.host] ∧
      decodeCmd 0x18000000 = .error .unknownOperation := by decide
theorem witness_ResetTurnResetsTheBlock :
    let s : State :=
      { spimOn with
        sched := [.reset, .load], linkFair := false, draws := 3, strayPolicy := .masked, maddr := 5, hostIssued := true }
    s.sched = .reset :: [.load] ∧ s.draws ≠ State.reset.draws ∧ s.linkFair ≠ State.reset.linkFair ∧
      s.strayPolicy ≠ State.reset.strayPolicy ∧ s.maddr ≠ State.reset.maddr ∧
      s.hostIssued ≠ State.reset.hostIssued := by decide
theorem witness_FaultedBlockStaysAsItIs :
    let s : State := { spim with fault := some .csNotDriven, sched := [.host], program := [.wire 0xA001] }
    s.fault = some .csNotDriven ∧ s.sched.head? ≠ some .reset ∧ step s = .next { s with sched := [], program := [] } :=
  ⟨rfl, by decide, rfl⟩
theorem witness_FinalStateStays :
    (State.reset.final ∧ State.reset.sched = []) ∧ ({ idle 0 1 with sched := [.load, .sequencer] } : State).final := by
  decide
theorem witness_ConfigureStoresTheConfiguration :
    (PrimitiveReady spim ∧ spim.initDone = false ∧ spim.en = false) ∧
      PrimitiveReady spimOn ∧ spimOn.initDone = false ∧ spimOn.en = true := by decide
theorem witness_EnableSetsTheEnableBit :
    (PrimitiveReady spimOn ∧ spimOn.initDone = false ∧ spimOn.cfgValid = true) ∧
      PrimitiveReady spim ∧ spim.initDone = false ∧ spim.cfgValid = false := by decide
theorem witness_DisableClearsTheEnableBit :
    (PrimitiveReady spimOn ∧ spimOn.initDone = false ∧ spimOn.txBuf = none ∧ spimOn.shiftAct = false ∧
      spimOn.bsy = false) ∧
    PrimitiveReady { spimOn with txBuf := some 0 } ∧ PrimitiveReady { spimOn with shiftAct := true } ∧
    PrimitiveReady { spimOn with bsy := true } := by decide
theorem witness_TransmitReadyReturnsTheFlag :
    (PrimitiveReady spim ∧ PrimitiveReady (afterInit 0 1)) ∧
      ({ spim with fault := some .csNotDriven } : State).fault ≠ none ∧
      ({ spim with mop := some .getBits } : State).mop = some .getBits ∧
      State.reset.fault = none ∧ State.reset.mop = none ∧ State.reset.spiClk = false := by decide
theorem witness_ReceiveReadyReturnsTheFlag :
    (PrimitiveReady { spimOn with rxBuf := some 0 }) ∧
      ({ spim with fault := some .csNotDriven } : State).fault ≠ none ∧
      ({ spim with mop := some .getBits } : State).mop = some .getBits ∧
      State.reset.fault = none ∧ State.reset.mop = none ∧ State.reset.spiClk = false := by decide
theorem witness_BusyReturnsTheFlag :
    (PrimitiveReady { spimOn with bsy := true }) ∧
      ({ spim with fault := some .csNotDriven } : State).fault ≠ none ∧
      ({ spim with mop := some .getBits } : State).mop = some .getBits ∧
      State.reset.fault = none ∧ State.reset.mop = none ∧ State.reset.spiClk = false := by decide
theorem witness_WriteFillsTheTransmitBuffer :
    PrimitiveReady spimOn ∧ spimOn.initDone = false ∧ spimOn.en = true ∧ spimOn.cfg.mode = .master ∧
      spimOn.cfg.frameWidth = 8 ∧ spimOn.cfg.slaveSelect = .softwareHigh ∧ spimOn.txBuf = none := by decide
theorem witness_WriteChecksInOrder :
    (PrimitiveReady spim ∧ spim.initDone = false ∧ spim.en = false) ∧
    (PrimitiveReady { spimOn with cfg := { initCfg with mode := .slave } } ∧
      ({ initCfg with mode := .slave } : Cfg).mode ≠ .master) ∧
    ({ initCfg with frameWidth := 16 } : Cfg).frameWidth ≠ 8 ∧
    ({ initCfg with slaveSelect := .softwareLow } : Cfg).slaveSelect ≠ .softwareHigh ∧
    PrimitiveReady { spimOn with txBuf := some 1 } := by decide
theorem witness_ReadReturnsTheReceivedByte :
    (PrimitiveReady { spimOn with rxBuf := some 0x3C } ∧ spimOn.initDone = false) ∧
      PrimitiveReady spimOn ∧ spimOn.rxBuf = none := by decide
theorem witness_PrimitiveChecksInOrder :
    (Instr.read, Op.read, true) ∈ [(Instr.enable, Op.enable, true), (.disable, .disable, true), (.read, .read, true)] ∧
    ({ spim with mop := some .readRegister } : State).mop = some .readRegister ∧
    ((afterInit 0 1).mop = none ∧ (afterInit 0 1).initDone = true) ∧
    State.reset.fault = none ∧ State.reset.mop = none ∧ State.reset.initDone = false ∧ State.reset.spiClk = false := by
  decide
theorem witness_PrimitivesLeaveTheSequencerAlone :
    ∃ t, exec .read { spimOn with rxBuf := some 1 } = .next t ∧ t.rxBuf = none := ⟨_, rfl, rfl⟩
theorem witness_LoadMovesTheByteToTheShifter :
    ({ spimOn with txBuf := some 1 } : State).fault = none ∧ spimOn.en = true ∧ spimOn.shiftAct = false ∧
      spimOn.txBuf = none ∧ spim.en = false := by decide
theorem witness_TransferExchangesOneFrame :
    (linkExchange 1 { afterInit 0 1 with slave := { (afterInit 0 1).slave with phase := .done }, shiftAct := true
                                         wireCfg := requiredWire } = .error (.slaveOverlong 1)) ∧
    (∃ m t, linkExchange 1 { spimOn with shiftAct := true } = .ok (m, t) ∧ spimOn.rxBuf = none) ∧
    (∃ m t, linkExchange 1 { spimOn with shiftAct := true, rxBuf := some 2 } = .ok (m, t)) ∧
    spimOn.fault = none ∧ spimOn.shiftAct = false ∧
    ({ spimOn with shiftAct := true, fault := some .csNotDriven } : State).fault ≠ none :=
  ⟨rfl, ⟨_, _, rfl, rfl⟩, ⟨_, _, rfl⟩, rfl, rfl, by decide⟩
theorem witness_LinkExchangeAnswers :
    spimOn.csDrv = false ∧ (idle 0 1).csN = true ∧
    ((afterInit 0 1).csDrv = true ∧ (afterInit 0 1).csN = false ∧ (afterInit 0 1).wireCfg ≠ requiredWire ∧
      (afterInit 0 1).slave.phase = .awaitAddr) ∧
    ({ afterInit 0 1 with wireCfg := requiredWire } : State).wireCfg = requiredWire ∧
    (slaveFrame { (idle 0 1).slave with phase := .awaitData true 0x7F } requiredWire 0 0).isOk = true ∧
    (slaveFrame { (idle 0 1).slave with phase := .awaitData false 0 } requiredWire 0 0).isOk = true ∧
    (idle 0 1).slave.kind = .echo ∧ ({ (idle 0 1).slave with kind := .device } : Slave).kind = .device ∧
    ({ (idle 0 1).slave with kind := .free, phase := .awaitData false 0x7F } : Slave).kind = .free := by decide

/-- 20 R79, by hand: under `FreeSlave` the data frame of a read is answered with the draw, not with the stored Byte, and
the data frame of a write stores nothing. -/
theorem test_freeSlave :
    slaveFrame { phase := .awaitData true 0x20, kind := .free, regs := [(0x20, 1)], device := 4 } requiredWire 0 9 =
      .ok ({ phase := .done, kind := .free, regs := [(0x20, 1)], device := 4 }, Config.draw 9) ∧
    slaveFrame { phase := .awaitData false 0x20, kind := .free, regs := [(0x20, 1)], device := 4 } requiredWire 7 9 =
      .ok ({ phase := .done, kind := .free, regs := [(0x20, 1)], device := 4 }, Config.draw 9) := ⟨rfl, rfl⟩
theorem witness_DrainClearsBusy :
    (spimOn.fault = none ∧ ({ spimOn with bsy := true } : State).bsy = true ∧ spimOn.shiftAct = false ∧
      spimOn.txBuf = none) ∧ spimOn.bsy = false := by decide
theorem witness_ChipSelectDrives : (idle 0 1).csDrv = true ∧ State.reset.csDrv = false := by decide

/-- A transaction at phase `p` after `initialize`. -/
def atPhase (p : Phase) : State := { afterInit 0x20 1 with mop := some .readRegister, phase := p, addr := 0x20 }

theorem witness_TransactionBeginsAndEnds :
    ((atPhase .idle).fault = none ∧ (atPhase .idle).mop = some .readRegister ∧ Op.readRegister ≠ .initialise ∧
      (atPhase .idle).csDrv = true ∧ (atPhase .idle).phase = .idle ∧
      nextTransaction .readRegister { atPhase .idle with maddr := 0x7F } = some (true, 0x7F, 0)) ∧
    (atPhase .p6).fault = none ∧ (atPhase .p6).mop = some .readRegister ∧ (atPhase .p6).csDrv = true ∧
    (atPhase .p6).phase = .p6 := by decide
theorem witness_AddressByteIsWrittenAtPhase2 :
    (atPhase .p2).fault = none ∧ (atPhase .p2).mop = some .readRegister ∧ (atPhase .p2).phase = .p2 ∧
      Initialised (atPhase .p2) ∧ (atPhase .p2).txBuf = none ∧
      ({ atPhase .p2 with txBuf := some 1 } : State).txBuf ≠ none := by decide
theorem witness_GarbageByteIsDiscardedAtPhase3 :
    (atPhase .p3).fault = none ∧ (atPhase .p3).mop = some .readRegister ∧ (atPhase .p3).phase = .p3 ∧
      (atPhase .p3).spiClk = true ∧ (atPhase .p3).rxBuf = none ∧
      ({ atPhase .p3 with rxBuf := some 1 } : State).rxBuf = some 1 := by decide
theorem witness_SecondFrameIsWrittenAtPhase4 :
    (atPhase .p4).fault = none ∧ (atPhase .p4).mop = some .readRegister ∧ (atPhase .p4).phase = .p4 ∧
      Initialised (atPhase .p4) ∧ (atPhase .p4).txBuf = none ∧
      ({ atPhase .p4 with txBuf := some 1 } : State).txBuf ≠ none := by decide
theorem witness_ReceivedByteIsCapturedAtPhase5 :
    (atPhase .p5).fault = none ∧ (atPhase .p5).mop = some .readRegister ∧ (atPhase .p5).phase = .p5 ∧
      (atPhase .p5).spiClk = true ∧ (atPhase .p5).rxBuf = none ∧
      ({ atPhase .p5 with rxBuf := some 1 } : State).rxBuf = some 1 := by decide
theorem witness_OperationChecksInOrder :
    ((atPhase .p2).fault = none ∧ (atPhase .p2).mop = some .readRegister) ∧
    (State.reset.fault = none ∧ State.reset.mop = none ∧ State.reset.initDone = false ∧
      Op.getBits ≠ Op.initialise) ∧
    ((afterInit 0 1).mop = none ∧ (afterInit 0 1).initDone = true) ∧
    (idle 0x20 1).fault = none ∧ (idle 0x20 1).mop = none ∧ (idle 0x20 1).initDone = true ∧
    (idle 0x20 1).strayPolicy = .refuse ∧ (0x61#8 &&& ~~~0xF0#8) ≠ 0 := by decide
theorem witness_InitialiseCompletes :
    InitReady State.reset ∧ InitReady { spim with sched := [.xfer, .sequencer, .drain] } ∧
      InitReady { spim with cfg := initCfg, cfgValid := true, rxBuf := some 0x3C } ∧
      ∀ t ∈ [Turn.xfer, .sequencer, .drain], t.isAgent = true := by decide

/-- The premises of the operations' completion, right after `initialize`, and later with `BSY` up and turns to come. -/
theorem witness_completions :
    (MtsReady (afterInit 0x20 1) ∧ LinkFair (afterInit 0x20 1)) ∧
      MtsReady { idle 0x20 1 with bsy := true, sched := [.drain, .sequencer, .load] } ∧
      LinkFair { idle 0x20 1 with bsy := true, sched := [.drain, .sequencer, .load] } := by decide
theorem witness_ReadRegisterCompletes : MtsReady (afterInit 0x20 1) ∧ LinkFair (afterInit 0x20 1) := by decide
theorem witness_WriteRegisterCompletes : MtsReady (idle 0x7F 1) ∧ LinkFair (idle 0x7F 1) := by decide
theorem witness_SetBitsCompletes : MtsReady (idle 0x20 0x60) ∧ LinkFair (idle 0x20 0x60) := by decide
theorem witness_SetFieldValueCompletes :
    (MtsReady (idle 0x20 0x17) ∧ LinkFair (idle 0x20 0x17) ∧
      ((idle 0x20 0x17).strayPolicy = .refuse → (0x60#8 &&& ~~~0xF0#8) = 0)) ∧
    MtsReady { idle 0x20 0x16 with strayPolicy := .masked } ∧ StrayPolicy.masked ≠ .refuse ∧
    StrayPolicy.unmasked ≠ .refuse := by decide
theorem witness_GetBitsCompletes : MtsReady (idle 0x20 0x67) ∧ LinkFair (idle 0x20 0x67) := by decide
theorem witness_GetAxisValueCompletes :
    (Axis.x, 0x28#7) ∈ [(Axis.x, 0x28#7), (Axis.y, 0x2A#7), (Axis.z, 0x2C#7)] ∧
      (Axis.z, 0x2C#7) ∈ [(Axis.x, 0x28#7), (Axis.y, 0x2A#7), (Axis.z, 0x2C#7)] ∧ MtsReady (idle 0x2D 0x80) ∧
      LinkFair (idle 0x2D 0x80) := by decide
theorem witness_GetTemperatureCompletes : MtsReady (idle 0x0C 0x19) ∧ LinkFair (idle 0x0C 0x19) := by decide
theorem witness_WireTransactionsComplete :
    (idle 0x20 1).fault = none ∧ (idle 0x20 1).mop = none ∧ LinkIdle (idle 0x20 1) ∧ LinkFair (idle 0x20 1) ∧
      LinkIdle { idle 0x20 1 with initDone := false } := by decide
theorem witness_WireTransactionsFault :
    ((atPhase .p3).fault = none ∧ (atPhase .p3).mop = some .readRegister) ∧
      (State.reset.fault = none ∧ State.reset.mop = none ∧ State.reset.phase = .idle ∧ State.reset.csDrv = false ∧
        State.reset.sched = []) ∧
      (∀ t ∈ [Turn.drain, .xfer, .sequencer], t.isAgent = true) ∧
      ({ spimOn with sched := [.drain, .xfer, .sequencer] } : State).txBuf = none ∧ spimOn.shiftAct = false ∧
      spimOn.fault = none ∧ spimOn.mop = none ∧ spimOn.phase = .idle ∧ spimOn.csDrv = false := by decide
theorem witness_OnlyValueOperationsWriteResult :
    ∃ t, exec (.writeRegister 0x20 0x55) { idle 0x20 1 with result := 0x1234 } = .next t ∧ t.result = 0x1234 :=
  ⟨_, rfl, by decide⟩

/-- The premises of the statements about `EchoSlave`. -/
theorem witness_echo :
    MtsReady (idle 0x20 0x17) ∧ LinkFair (idle 0x20 0x17) ∧ (idle 0x20 0x17).slave.kind = .echo ∧
      Memory.wf (idle 0x20 0x17).slave.regs = true ∧ Memory.wf (idle 0x7F 0xFF).slave.regs = true := by decide
theorem witness_WriteThenReadReturnsTheByte :
    MtsReady (idle 0x20 0x17) ∧ LinkFair (idle 0x20 0x17) ∧ (idle 0x20 0x17).slave.kind = .echo ∧
      Memory.wf (idle 0x20 0x17).slave.regs = true := by decide
theorem witness_WriteRegisterStoresOneByte :
    MtsReady (idle 0x7F 0x17) ∧ LinkFair (idle 0x7F 0x17) ∧ (idle 0x7F 0x17).slave.kind = .echo ∧
      Memory.wf (idle 0x7F 0x17).slave.regs = true ∧
      after (exec (.writeRegister 0x7F 0) (idle 0x7F 0x17)) (fun t => t.slave.regs == []) ∧
      after (exec (.writeRegisterWire 0 9) (idle 0x7F 0x17)) (fun t => t.slave.regs == [(0, 9), (0x7F, 0x17)]) := by
  decide
theorem witness_SetFieldValueIsolatesTheField :
    MtsReady (idle 0x20 0xA5) ∧ LinkFair (idle 0x20 0xA5) ∧ (idle 0x20 0xA5).slave.kind = .echo ∧
      Memory.wf (idle 0x20 0xA5).slave.regs = true ∧ (0x00#8 &&& ~~~0x00#8) = 0 ∧
      after (exec (.setFieldValue 0x20 0x00 0x00) (idle 0x20 0xA5)) (fun t => t.slave.regs == [(0x20, 0xA5)]) := by
  decide
theorem witness_SetBitsIsIdempotent :
    MtsReady (idle 0x20 0x60) ∧ LinkFair (idle 0x20 0x60) ∧ (idle 0x20 0x60).slave.kind = .echo ∧
      Memory.wf (idle 0x20 0x60).slave.regs = true := by decide
theorem witness_ReadingLeavesTheRegisters :
    MtsReady (idle 0x29 0x12) ∧ LinkFair (idle 0x29 0x12) ∧
      after (exec (.getAxisValue .x) (idle 0x29 0x12)) (fun t => t.slave.regs == [(0x29, 0x12)]) := by decide
theorem witness_SilentLinkHangsTheRead :
    MtsReady { idle 0x20 0x67 with linkFair := false, sched := [.load, .drain, .sequencer] } ∧
      ({ idle 0x20 0x67 with linkFair := false } : State).linkFair = false ∧
      ∀ t ∈ [Turn.load, .drain, .sequencer], t.isAgent = true ∧ t ≠ .xfer := by decide
theorem witness_StepKeepsTheBlockInvariants :
    BlockInv { atPhase .p3 with txBuf := some 0xA0 } ∧
      ∃ t, step { atPhase .p3 with txBuf := some 0xA0 } = .next t ∧ t.shift = 0xA0 :=
  ⟨⟨by decide, by decide, by decide, by decide, by decide, by decide, by decide, by decide⟩, _, rfl, by decide⟩
theorem witness_StepKeepsTheProtocol :
    Protocol (afterInit 0x20 1) ∧ (afterInit 0x20 1).sched.head? ≠ some .reset ∧
      Protocol { atPhase .p3 with dir := true, txBuf := some 0xA0 } :=
  ⟨⟨by decide, by decide, by decide, by decide, by decide, ⟨rfl, rfl, rfl, rfl⟩⟩, by decide,
    ⟨by decide, by decide, by decide, by decide, by decide, .inl ⟨by decide, rfl, rfl, rfl⟩⟩⟩

/-- The premise on chip-select at rest, before a transaction and in the middle of one whose next step ends it. -/
theorem witness_StepKeepsTheProtocol_rest :
    (Protocol (idle 0x20 1) ∧ (idle 0x20 1).phase = .idle ∧ (idle 0x20 1).csN = true) ∧
      let s : State := { atPhase .p6 with slave := { (atPhase .p6).slave with phase := .done } }
      Protocol s ∧ s.phase ≠ .idle ∧ after (step s) (fun t => t.phase == .idle && t.csN) :=
  ⟨⟨⟨by decide, by decide, by decide, by decide, by decide, ⟨rfl, rfl, rfl, rfl⟩⟩, by decide, by decide⟩,
    ⟨by decide, by decide, by decide, by decide, by decide, ⟨rfl, rfl, rfl, rfl⟩⟩, by decide, by decide⟩
theorem witness_TraceOnlyGrows : ∃ t, step (State.reset.withFetchWord 32 0x10000000) = .next t ∧ t.trace.length = 10 :=
  ⟨_, rfl, by decide⟩

end Sys2Proof.Tests
end

section
/-! SUPPORT. What each operation leaves where it raises no fault, said once: the chip-select drives, the bodies of the
SPIM primitives, the exchange over the link, the six transitions and the steps of `initialise`; and when an agent's step
is `initialise` issued from a state that is ready for it. -/

namespace Sys2Proof.Proofs

open Sys2Proof.Machine Sys2Proof.Laws

variable {s t : State}

/-! ### Results that may be a fault -/

/-- A mapped result is a value exactly where the result is one. -/
theorem map_eq_ok_iff {α β : Type} {r : Except FaultRec α} {f : α → β} {y : β} :
    r.map f = .ok y ↔ ∃ x, r = .ok x ∧ f x = y := by
  cases r <;> simp [Except.map]

/-- What a fault recorded leaves true, and the new state makes true, is true of the step settled (60 R258). -/
theorem settle_keeps {P : State → Prop} {r : Except FaultRec State} (hraise : ∀ f, P (raise f s))
    (hok : ∀ t, r = .ok t → P t) : P (settle s r) := by
  obtain ⟨t, hr, ht⟩ | ⟨f, -, hf⟩ := settle_cases s r
  · exact ht ▸ hok t hr
  · exact hf ▸ hraise f

/-- A body that runs has its clock on (40 R120 (4)). -/
theorem clocked_eq_ok_iff {α : Type} {op : Op} {body : Except FaultRec α} {x : α} :
    clocked op s body = .ok x ↔ s.spiClk = true ∧ body = .ok x := by
  unfold clocked
  cases s.spiClk <;> simp

/-! ### The chip-select drives (41 R161) -/

theorem csAssert_ok (h : csAssert s = .ok t) :
    s.csDrv = true ∧ t =
      { s with
        csN := false, slave := if s.csN then slaveSelect s.slave else s.slave
        trace := s.trace ++ [.collab (.resetPin .csPin), .csLow] } := by
  unfold csAssert at h
  split at h
  · next hd => exact ⟨hd, by simp [← Except.ok.inj h, emit, collabCall]⟩
  · cases h

theorem csDeassert_ok (h : csDeassert s = .ok t) :
    s.csDrv = true ∧ t =
      { s with
        csN := true, slave := if s.csN then s.slave else slaveDeselect s.slave
        trace := s.trace ++ [.collab (.setPin .csPin), .csHigh] } := by
  unfold csDeassert at h
  split at h
  · next hd => exact ⟨hd, by simp [← Except.ok.inj h, emit, collabCall]⟩
  · cases h

/-- A drive to low leaves the slave's registers. -/
theorem regs_of_asserted (c : Bool) (sl : Slave) : (if c then slaveSelect sl else sl).regs = sl.regs := by
  cases c <;> rfl

/-- A drive to high leaves the slave's registers. -/
theorem regs_of_deasserted (c : Bool) (sl : Slave) : (if c then sl else slaveDeselect sl).regs = sl.regs := by
  cases c <;> rfl

/-! ### The bodies of the primitives (40 R121 to R128) -/

theorem primConfigure_ok {c : Cfg} (h : primConfigure c s = .ok t) :
    s.en = false ∧ t = { s with cfg := c, cfgValid := true } := by
  obtain ⟨-, hb⟩ := clocked_eq_ok_iff.mp h
  split at hb
  · cases hb
  · next he => exact ⟨by simpa using he, (Except.ok.inj hb).symm⟩

theorem primEnable_ok (h : primEnable s = .ok t) : s.cfgValid = true ∧ t = { s with en := true } := by
  obtain ⟨-, hb⟩ := clocked_eq_ok_iff.mp h
  split at hb
  · next hv => exact ⟨hv, (Except.ok.inj hb).symm⟩
  · cases hb

theorem primDisable_ok (h : primDisable s = .ok t) : s.inFlight = false ∧ t = { s with en := false } := by
  obtain ⟨-, hb⟩ := clocked_eq_ok_iff.mp h
  split at hb
  · cases hb
  · next hi => exact ⟨by simpa using hi, (Except.ok.inj hb).symm⟩

theorem primWrite_ok {b : Byte} (h : primWrite b s = .ok t) :
    s.en = true ∧ admittedCfg s.cfg = true ∧ s.txBuf = none ∧ t = emit (.tx b) { s with txBuf := some b } := by
  obtain ⟨-, hb⟩ := clocked_eq_ok_iff.mp h
  split at hb
  · cases hb
  · next he =>
    split at hb
    · cases hb
    · next ha =>
      split at hb
      · cases hb
      · next htx => exact ⟨by simpa using he, by simpa using ha, htx, (Except.ok.inj hb).symm⟩

/-- A read empties `RXBUF`; where it was empty already one free Byte is used up. -/
theorem primRead_ok {b : Byte} (h : primRead s = .ok (b, t)) :
    ∃ n, t = emit (.rx b) { s with rxBuf := none, draws := n } := by
  obtain ⟨-, hb⟩ := clocked_eq_ok_iff.mp h
  split at hb
  · obtain ⟨rfl, rfl⟩ := Prod.mk.inj (Except.ok.inj hb)
    exact ⟨s.draws, rfl⟩
  · next hrx =>
    obtain ⟨rfl, rfl⟩ := Prod.mk.inj (Except.ok.inj hb)
    exact ⟨s.draws + 1, by simp only [← hrx]⟩

theorem primQuery_ok {op : Op} {flag : State → Bool} (h : primQuery op flag s = .ok t) :
    t = { s with result := boolResult (flag s) } :=
  (Except.ok.inj (clocked_eq_ok_iff.mp h).2).symm

/-! ### The link (20 R75, R77) -/

/-- A write of the slave's kind keeps the canonical form of its memory (20 R60; log 8). -/
theorem slaveWriteValue_regs_wf {sl : Slave} (h : Memory.wf sl.regs = true) (a : Addr7) (v : Byte) :
    Memory.wf (slaveWriteValue sl a v).regs = true := by
  unfold slaveWriteValue
  cases sl.kind with
  | echo => exact wf_write h a v
  | free => exact h
  | device => exact h

/-- A frame the slave decodes keeps the canonical form of its memory. -/
theorem slaveFrame_regs_wf {sl sl' : Slave} {w : WireCfg} {b m : Byte} {n : Nat} (h : Memory.wf sl.regs = true)
    (he : slaveFrame sl w b n = .ok (sl', m)) : Memory.wf sl'.regs = true := by
  unfold slaveFrame at he
  split at he
  · cases he
  · split at he <;> cases he
    · exact h
    · exact h
    · exact h
    · exact slaveWriteValue_regs_wf h _ _

/-- An exchange changes the slave at most, whose memory stays canonical, uses up one free Byte and records the frame. -/
theorem linkExchange_ok {b m : Byte} (h : linkExchange b s = .ok (m, t)) :
    ∃ sl, t = emit (.xfer b m) { s with slave := sl, draws := s.draws + 1 } ∧
      (Memory.wf s.slave.regs = true → Memory.wf sl.regs = true) := by
  unfold linkExchange at h
  split at h
  · split at h
    · next sl m' hf =>
      obtain ⟨rfl, rfl⟩ := Prod.mk.inj (Except.ok.inj h)
      exact ⟨sl, rfl, fun hw => slaveFrame_regs_wf hw hf⟩
    · cases h
  · obtain ⟨rfl, rfl⟩ := Prod.mk.inj (Except.ok.inj h)
    exact ⟨s.slave, rfl, id⟩

/-- S-XFER faults in the state it started from, or exchanges the frame and then overruns or receives (40 R130, R132). -/
theorem xferStep_cases (s : State) :
    (∃ f, xferStep s = raise f s) ∨
      ∃ m t, linkExchange s.shift s = .ok (m, t) ∧
        ((∃ f, xferStep s = raise f t) ∨ xferStep s = { t with rxBuf := some m, shiftAct := false }) := by
  unfold xferStep
  split
  · next f _ => exact .inl ⟨f, rfl⟩
  · next m t he =>
    refine .inr ⟨m, t, he, ?_⟩
    split
    · exact .inl ⟨_, rfl⟩
    · exact .inr rfl

/-- S-LOAD, where it is enabled, moves a Byte from `TXBUF` into the shifter (40 R129). -/
theorem loadStep_eq (h : loadEnabled s = true) :
    ∃ b, s.txBuf = some b ∧ loadStep s =
      { s with shift := b, shiftAct := true, txBuf := none, bsy := true, wireCfg := currentWire s } := by
  cases hb : s.txBuf with
  | none => simp [loadEnabled, State.txe, hb] at h
  | some b => exact ⟨b, rfl, by simp only [loadStep, hb]⟩

/-! ### The six transitions (41 R162 to R167) -/

theorem t1_ok {d : Bool} {a : Addr7} {v : Byte} (h : t1 d a v s = .ok t) :
    s.csDrv = true ∧ t =
      { s with
        dir := d, addr := a, wdata := if d then s.wdata else v, phase := .p2, csN := false
        slave := if s.csN then slaveSelect s.slave else s.slave
        trace := s.trace ++ [.collab (.resetPin .csPin), .csLow] } := by
  obtain ⟨u, hu, rfl⟩ := map_eq_ok_iff.mp h
  obtain ⟨hd, rfl⟩ := csAssert_ok hu
  exact ⟨hd, rfl⟩

theorem t2_ok (h : t2 s = .ok t) :
    t = emit (.tx (addressByte s.dir s.addr))
      { s with txBuf := some (addressByte s.dir s.addr), phase := .p3 } := by
  obtain ⟨u, hu, rfl⟩ := map_eq_ok_iff.mp h
  obtain ⟨-, -, -, rfl⟩ := primWrite_ok hu
  rfl

theorem t3_ok (h : t3 s = .ok t) :
    ∃ b n, t = emit (.rx b) { s with rxBuf := none, draws := n, phase := .p4 } := by
  obtain ⟨⟨b, u⟩, hu, rfl⟩ := map_eq_ok_iff.mp h
  obtain ⟨n, rfl⟩ := primRead_ok hu
  exact ⟨b, n, rfl⟩

theorem t4_ok (h : t4 s = .ok t) :
    t = emit (.tx (secondFrame s.dir s.wdata))
      { s with txBuf := some (secondFrame s.dir s.wdata), phase := .p5 } := by
  obtain ⟨u, hu, rfl⟩ := map_eq_ok_iff.mp h
  obtain ⟨-, -, -, rfl⟩ := primWrite_ok hu
  rfl

theorem t5_ok (h : t5 s = .ok t) :
    ∃ b n, t = emit (.rx b) { s with rxBuf := none, draws := n, capt := b, phase := .p6 } := by
  obtain ⟨⟨b, u⟩, hu, rfl⟩ := map_eq_ok_iff.mp h
  obtain ⟨n, rfl⟩ := primRead_ok hu
  exact ⟨b, n, rfl⟩

theorem t6_ok {op : Op} (h : t6 op s = .ok t) :
    s.csDrv = true ∧ t =
      { s with
        phase := .idle, csN := true, mstage := s.mstage + 1
        slave := if s.csN then s.slave else slaveDeselect s.slave
        trace := s.trace ++ [.collab (.setPin .csPin), .csHigh]
        mtmp := if keepsFirstByte op && s.mstage == 0 then s.capt else s.mtmp } := by
  obtain ⟨u, hu, rfl⟩ := map_eq_ok_iff.mp h
  obtain ⟨hd, rfl⟩ := csDeassert_ok hu
  exact ⟨hd, rfl⟩

/-! ### The steps of `initialise` (43 R230) -/

/-- I3 configures the three bus pins and changes nothing else but `PLAT.PINS_AF`. -/
theorem initPins_eq (s : State) : initPins s =
    { s with
      pinsAf := true
      trace := s.trace ++ [.collab (.configurePinAsAlternateFunction .sckPin .spiAf .pushPull .noPull .medium),
        .collab (.configurePinAsAlternateFunction .misoPin .spiAf .pushPull .noPull .medium),
        .collab (.configurePinAsAlternateFunction .mosiPin .spiAf .pushPull .noPull .medium)] } := by
  simp [initPins, initBusPin, collabCall, emit]

/-- Eight steps make up `initialise`, each at its own count. -/
theorem initStage_ok {k : Nat} (h : initStage k s = some (.ok t)) :
    (k = 0 ∧ t = initClockSpi s) ∨ (k = 1 ∧ t = initClockCs s) ∨ (k = 2 ∧ t = initPins s) ∨
      (k = 3 ∧ t = initCsPin s) ∨ (k = 4 ∧ csDeassert s = .ok t) ∨ (k = 5 ∧ primConfigure initCfg s = .ok t) ∨
      (k = 6 ∧ primEnable s = .ok t) ∨ (k = 7 ∧ initSelect s = .ok t) := by
  unfold initStage at h
  split at h <;> simp_all

theorem initSelect_ok (h : initSelect s = .ok t) :
    s.csDrv = true ∧ t =
      { s with
        csN := false, initDone := true, slave := if s.csN then slaveSelect s.slave else s.slave
        trace := s.trace ++ [.collab (.resetPin .csPin), .csLow] } := by
  obtain ⟨u, hu, rfl⟩ := map_eq_ok_iff.mp h
  obtain ⟨hd, rfl⟩ := csAssert_ok hu
  exact ⟨hd, rfl⟩

/-- No step of `initialise` moves `PHASE` (43 R230). -/
theorem initStage_phase {k : Nat} (h : initStage k s = some (.ok t)) : t.phase = s.phase := by
  obtain ⟨-, rfl⟩ | ⟨-, rfl⟩ | ⟨-, rfl⟩ | ⟨-, rfl⟩ | ⟨-, h⟩ | ⟨-, h⟩ | ⟨-, h⟩ | ⟨-, h⟩ := initStage_ok h
  · rfl
  · rfl
  · rfl
  · rfl
  · obtain ⟨-, rfl⟩ := csDeassert_ok h; rfl
  · obtain ⟨-, rfl⟩ := primConfigure_ok h; rfl
  · obtain ⟨-, rfl⟩ := primEnable_ok h; rfl
  · obtain ⟨-, rfl⟩ := initSelect_ok h; rfl

/-- Issued where it may be, `initialise` runs to its return under every schedule of the agents (43 R230). -/
theorem exec_initialise_of_initReady (h : InitReady s) (hs : ∀ t ∈ s.sched, t.isAgent = true) :
    ∃ ts, ts <:+ s.sched ∧ exec .initialise s = .next { initState s 9 false with sched := ts } := by
  obtain ⟨ts, hsuf, hrun⟩ := run_init h hs
  obtain ⟨hf, hm, hi, -⟩ := h
  refine ⟨ts, hsuf, ?_⟩
  rw [← hrun]
  simp [exec, execInitialise, issueOperation, operationCheck, hf, hm, hi]

end Sys2Proof.Proofs
end

section
/-! PROOFS. The invariants of the block (10 R45, R46 (b), 40 R122, 43 R236, 20 R60): every part of a step keeps
`BlockInv`. A part that writes no field `BlockInv` reads keeps it as it stands. -/

namespace Sys2Proof.Proofs

open Sys2Proof.Machine Sys2Proof.Laws

variable {s t : State}

/-! ### The shifter -/

theorem blockInv_loadStep (h : BlockInv s) (he : loadEnabled s = true) : BlockInv (loadStep s) := by
  obtain ⟨hcs, -, hen, hrest⟩ := h
  obtain ⟨b, -, hl⟩ := loadStep_eq he
  rw [hl]
  exact ⟨hcs, fun _ => rfl, hen, hrest⟩

theorem blockInv_linkExchange {b m : Byte} (h : BlockInv s) (he : linkExchange b s = .ok (m, t)) : BlockInv t := by
  obtain ⟨hcs, hshift, hen, hrest, hinit, hdone, hline, hmem⟩ := h
  obtain ⟨sl, rfl, hsl⟩ := linkExchange_ok he
  exact ⟨hcs, hshift, hen, hrest, hinit, hdone, hline, hsl hmem⟩

/-- An exchange does not write `BSY`, whether its frame leaves the shifter or overruns (10 R46 (b)). -/
theorem blockInv_xferStep (h : BlockInv s) : BlockInv (xferStep s) := by
  obtain ⟨f, hx⟩ | ⟨m, t, he, hx⟩ := xferStep_cases s
  · rw [hx]; exact h
  · have ht := blockInv_linkExchange h he
    obtain ⟨f, hx⟩ | hx := hx <;> rw [hx]
    · exact ht
    · obtain ⟨hcs, -, hen, hrest⟩ := ht
      exact ⟨hcs, nofun, hen, hrest⟩

/-- S-DRAIN ends `BSY` only with no frame in the shifter (10 R46 (b)). -/
theorem blockInv_drainStep (h : BlockInv s) (he : drainEnabled s = true) : BlockInv (drainStep s) := by
  obtain ⟨hcs, -, hen, hrest⟩ := h
  have hidle : s.shiftAct = false := by simp_all [drainEnabled]
  exact ⟨hcs, fun ha => absurd (hidle.symm.trans ha) nofun, hen, hrest⟩

/-! ### The transitions of a transaction -/

/-- Within a transaction `PHASE` may move freely as far as `BlockInv` says: chip-select is low and an operation other
than `initialise` is in progress. -/
theorem blockInv_phase_of_selected (h : BlockInv s) (hp : s.phase ≠ .idle) (p : Phase) :
    BlockInv { s with phase := p } := by
  obtain ⟨hcs, hshift, hen, hrest, hinit, hlast⟩ := h
  exact ⟨fun _ => hcs hp, hshift, hen, fun hm => absurd (hrest hm) hp, fun hm => absurd (hinit hm).1 hp, hlast⟩

theorem blockInv_t1 {op : Op} {d : Bool} {a : Addr7} {v : Byte} (h : BlockInv s) (hm : s.mop = some op)
    (hop : op ≠ .initialise) (ht : t1 d a v s = .ok t) : BlockInv t := by
  obtain ⟨-, hshift, hen, -, -, hdone, hline, hmem⟩ := h
  obtain ⟨hd, rfl⟩ := t1_ok ht
  refine ⟨fun _ => ⟨hd, rfl⟩, hshift, hen, fun h0 => ?_, fun hi => ?_, hdone, fun h0 => ?_, ?_⟩
  · exact absurd (hm.symm.trans h0) nofun
  · exact absurd (Option.some.inj (hm.symm.trans hi)) hop
  · exact absurd (hd.symm.trans h0) nofun
  · exact (congrArg Memory.wf (regs_of_asserted s.csN s.slave)).trans hmem

theorem blockInv_t6 {op : Op} (h : BlockInv s) (hp : s.phase = .p6) (ht : t6 op s = .ok t) : BlockInv t := by
  obtain ⟨-, hshift, hen, hrest, hinit, hdone, -, hmem⟩ := h
  obtain ⟨-, rfl⟩ := t6_ok ht
  refine ⟨fun h0 => absurd rfl h0, hshift, hen, fun _ => rfl, fun hi => ?_, hdone, fun _ => rfl, ?_⟩
  · exact absurd (hp.symm.trans (hinit hi).1) nofun
  · exact (congrArg Memory.wf (regs_of_deasserted s.csN s.slave)).trans hmem

/-- The return leaves no operation in progress, and `PHASE` is at rest already (41 R160). -/
theorem blockInv_returnStep {op : Op} (h : BlockInv s) (hp : s.phase = .idle) : BlockInv (returnStep op s) := by
  obtain ⟨hcs, hshift, hen, -, -, hlast⟩ := h
  exact ⟨hcs, hshift, hen, fun _ => hp, nofun, hlast⟩

/-! ### The steps of `initialise` -/

/-- With no step done nothing is set yet. -/
theorem initProgress_of_mstage_zero (hp : s.phase = .idle) (h0 : s.mstage = 0) : InitProgress s := by
  simp [InitProgress, hp, h0]

/-- With seven steps done all that `initialise` sets for good is set (10 R44). -/
theorem initialised_of_initProgress (h : InitProgress s) (hk : 7 ≤ s.mstage) : Initialised s := by
  obtain ⟨-, -, hspi, hcsClk, hpins, hdrv, hcfg, hon⟩ := h
  obtain ⟨hc, hv⟩ := hcfg (by omega)
  exact ⟨hc, hv, hon hk, hspi (by omega), hcsClk (by omega), hpins (by omega), hdrv (by omega)⟩

/-- Each step of `initialise` sets what the next count of `MSTAGE` stands for (43 R230, R236; log 15). -/
theorem initProgress_initStage (h : InitProgress s) (ht : initStage s.mstage s = some (.ok t)) :
    InitProgress { t with mstage := s.mstage + 1 } := by
  have hcases := initStage_ok ht
  clear ht
  obtain ⟨hk, rfl⟩ | ⟨hk, rfl⟩ | ⟨hk, rfl⟩ | ⟨hk, rfl⟩ | ⟨hk, ht⟩ | ⟨hk, ht⟩ | ⟨hk, ht⟩ | ⟨hk, ht⟩ := hcases
  · simp_all [InitProgress, initClockSpi, collabCall]
  · simp_all [InitProgress, initClockCs, collabCall]
  · simp_all [InitProgress, initPins_eq]
  · simp_all [InitProgress, initCsPin, collabCall]
  · obtain ⟨-, rfl⟩ := csDeassert_ok ht
    simp_all [InitProgress]
  · obtain ⟨-, rfl⟩ := primConfigure_ok ht
    simp_all [InitProgress]
  · obtain ⟨-, rfl⟩ := primEnable_ok ht
    simp_all [InitProgress]
  · obtain ⟨-, rfl⟩ := initSelect_ok ht
    simp_all [InitProgress]

theorem blockInv_initStage (h : BlockInv s) (hm : s.mop = some .initialise)
    (ht : initStage s.mstage s = some (.ok t)) : BlockInv { t with mstage := s.mstage + 1 } := by
  obtain ⟨-, hshift, hen, hrest, hinit, hdone, hline, hmem⟩ := h
  have hp : s.phase = .idle := (hinit hm).1
  have hnext := initProgress_initStage (hinit hm) ht
  obtain ⟨-, rfl⟩ | ⟨-, rfl⟩ | ⟨-, rfl⟩ | ⟨-, rfl⟩ | ⟨-, ht⟩ | ⟨-, ht⟩ | ⟨-, ht⟩ | ⟨hk, ht⟩ := initStage_ok ht
  · refine ⟨fun h0 => absurd hp h0, hshift, hen, hrest, fun _ => hnext, fun hd => ?_, hline, hmem⟩
    obtain ⟨hcfg, hv, he, -, hlast⟩ := hdone hd
    exact ⟨hcfg, hv, he, rfl, hlast⟩
  · refine ⟨fun h0 => absurd hp h0, hshift, hen, hrest, fun _ => hnext, fun hd => ?_, hline, hmem⟩
    obtain ⟨hcfg, hv, he, hspi, -, hlast⟩ := hdone hd
    exact ⟨hcfg, hv, he, hspi, rfl, hlast⟩
  · rw [initPins_eq] at hnext ⊢
    refine ⟨fun h0 => absurd hp h0, hshift, hen, hrest, fun _ => hnext, fun hd => ?_, hline, hmem⟩
    obtain ⟨hcfg, hv, he, hspi, hcs, -, hdrv⟩ := hdone hd
    exact ⟨hcfg, hv, he, hspi, hcs, rfl, hdrv⟩
  · refine ⟨fun h0 => absurd hp h0, hshift, hen, hrest, fun _ => hnext, fun hd => ?_, nofun, hmem⟩
    obtain ⟨hcfg, hv, he, hspi, hcs, hpins, -⟩ := hdone hd
    exact ⟨hcfg, hv, he, hspi, hcs, hpins, rfl⟩
  · obtain ⟨-, rfl⟩ := csDeassert_ok ht
    refine ⟨fun h0 => absurd hp h0, hshift, hen, hrest, fun _ => hnext, hdone, fun _ => rfl, ?_⟩
    exact (congrArg Memory.wf (regs_of_deasserted s.csN s.slave)).trans hmem
  · obtain ⟨-, rfl⟩ := primConfigure_ok ht
    refine ⟨fun h0 => absurd hp h0, hshift, fun _ => rfl, hrest, fun _ => hnext, fun hd => ?_, hline, hmem⟩
    obtain ⟨-, -, hlast⟩ := hdone hd
    exact ⟨rfl, rfl, hlast⟩
  · obtain ⟨hv, rfl⟩ := primEnable_ok ht
    refine ⟨fun h0 => absurd hp h0, hshift, fun _ => hv, hrest, fun _ => hnext, fun hd => ?_, hline, hmem⟩
    obtain ⟨hcfg, hv, -, hlast⟩ := hdone hd
    exact ⟨hcfg, hv, rfl, hlast⟩
  · obtain ⟨hdrv, rfl⟩ := initSelect_ok ht
    exact ⟨fun h0 => absurd hp h0, hshift, hen, hrest, fun _ => hnext,
      fun _ => initialised_of_initProgress hnext (by simp [hk]), fun h0 => absurd (hdrv.symm.trans h0) nofun,
      (congrArg Memory.wf (regs_of_asserted s.csN s.slave)).trans hmem⟩

/-! ### Every agent's step -/

theorem blockInv_sequencerStep (h : BlockInv s) (he : sequencerEnabled s = true) : BlockInv (sequencerStep s) := by
  have settled {r : Except FaultRec State} (hok : ∀ t, r = .ok t → BlockInv t) : BlockInv (settle s r) :=
    settle_keeps (fun _ => h) hok
  obtain ⟨op, hm, ⟨hp, rfl, r, hr, hs⟩ | ⟨hp, hop, d, a, v, hn, hs⟩ | ⟨hp, -, hs⟩ | ⟨hp, -, hs⟩ | ⟨hp, -, hs⟩ |
    ⟨hp, -, hs⟩ | ⟨hp, -, hs⟩ | ⟨hp, hs⟩⟩ := sequencerStep_cases he <;> rw [hs]
  · refine settled fun t ht => ?_
    obtain ⟨u, rfl, rfl⟩ := map_eq_ok_iff.mp ht
    exact blockInv_initStage h hm hr
  · exact settled fun t ht => blockInv_t1 h hm hop ht
  · exact blockInv_returnStep h hp
  · refine settled fun t ht => ?_
    obtain rfl := t2_ok ht
    exact blockInv_phase_of_selected h (by simp [hp]) .p3
  · refine settled fun t ht => ?_
    obtain ⟨b, n, rfl⟩ := t3_ok ht
    exact blockInv_phase_of_selected h (by simp [hp]) .p4
  · refine settled fun t ht => ?_
    obtain rfl := t4_ok ht
    exact blockInv_phase_of_selected h (by simp [hp]) .p5
  · refine settled fun t ht => ?_
    obtain ⟨b, n, rfl⟩ := t5_ok ht
    exact blockInv_phase_of_selected h (by simp [hp]) .p6
  · exact settled fun t ht => blockInv_t6 h hp ht

theorem blockInv_agentStep (t : Turn) (s : State) (h : BlockInv s) : BlockInv (agentStep t s) := by
  obtain hs | ⟨-, he, hs⟩ | ⟨-, he, hs⟩ | ⟨-, he, hs⟩ | ⟨-, he, hs⟩ := agentStep_cases t s <;> rw [hs]
  · exact h
  · exact blockInv_sequencerStep h he
  · exact blockInv_loadStep h he
  · exact blockInv_xferStep h
  · exact blockInv_drainStep h he

/-! ### What the host issues, and the reset -/

/-- A configuration the host stores finds no operation in progress and `initialise` not done (40 R120, R121). -/
theorem blockInv_primConfigure {c : Cfg} (h : BlockInv s) (hm : s.mop = none) (hi : s.initDone = false)
    (ht : primConfigure c s = .ok t) : BlockInv t := by
  obtain ⟨hcs, hshift, -, hrest, -, -, hlast⟩ := h
  obtain ⟨-, rfl⟩ := primConfigure_ok ht
  exact ⟨hcs, hshift, fun _ => rfl, hrest, fun h0 => absurd (hm.symm.trans h0) nofun,
    fun h0 => absurd (hi.symm.trans h0) nofun, hlast⟩

/-- `EN` is set only over a configuration (40 R122). -/
theorem blockInv_primEnable (h : BlockInv s) (hm : s.mop = none) (hi : s.initDone = false)
    (ht : primEnable s = .ok t) : BlockInv t := by
  obtain ⟨hcs, hshift, -, hrest, -, -, hlast⟩ := h
  obtain ⟨hv, rfl⟩ := primEnable_ok ht
  exact ⟨hcs, hshift, fun _ => hv, hrest, fun h0 => absurd (hm.symm.trans h0) nofun,
    fun h0 => absurd (hi.symm.trans h0) nofun, hlast⟩

theorem blockInv_primDisable (h : BlockInv s) (hm : s.mop = none) (hi : s.initDone = false)
    (ht : primDisable s = .ok t) : BlockInv t := by
  obtain ⟨hcs, hshift, -, hrest, -, -, hlast⟩ := h
  obtain ⟨-, rfl⟩ := primDisable_ok ht
  exact ⟨hcs, hshift, nofun, hrest, fun h0 => absurd (hm.symm.trans h0) nofun,
    fun h0 => absurd (hi.symm.trans h0) nofun, hlast⟩

/-- An operation starts with `PHASE` at rest and no stage done (41 R160; log 15). -/
theorem blockInv_startOperation (h : BlockInv s) (hm : s.mop = none) (op : Op) (host : Bool) (a : Addr7) (m v : Byte) :
    BlockInv (startOperation op host { s with maddr := a, mmask := m, mval := v }) := by
  obtain ⟨hcs, hshift, hen, hrest, -, hlast⟩ := h
  exact ⟨hcs, hshift, hen, nofun, fun _ => initProgress_of_mstage_zero (hrest hm) rfl, hlast⟩

theorem blockInv_blockReset (h : BlockInv s) : BlockInv (blockReset s) := by
  obtain ⟨-, -, -, -, -, -, -, hmem⟩ := h
  exact ⟨fun h0 => absurd rfl h0, nofun, nofun, fun _ => rfl, nofun, nofun, fun _ => rfl, hmem⟩

/-- Every part of a step keeps the invariants of the block. -/
theorem blockInv_kept : Kept BlockInv where
  agent := blockInv_agentStep
  sched _ _ h := h
  program _ _ h := h
  reentry _ _ _ h _ _ := h
  ownership _ _ h _ _ := h
  notInitialised _ _ h _ _ := h
  alreadyInitialised _ h _ _ := h
  stray _ _ _ h _ := h
  illegal _ _ h _ := h
  configure _ _ h _ hm hi := settle_keeps (fun _ => h) fun _ ht => blockInv_primConfigure h hm hi ht
  enable _ h _ hm hi := settle_keeps (fun _ => h) fun _ ht => blockInv_primEnable h hm hi ht
  disable _ h _ hm hi := settle_keeps (fun _ => h) fun _ ht => blockInv_primDisable h hm hi ht
  write _ _ h _ _ _ := settle_keeps (fun _ => h) fun _ ht => by
    obtain ⟨-, -, -, rfl⟩ := primWrite_ok ht
    exact h
  read _ h _ _ _ := settle_keeps (fun _ => h) fun _ ht => by
    obtain ⟨⟨b, u⟩, hu, rfl⟩ := map_eq_ok_iff.mp ht
    obtain ⟨n, rfl⟩ := primRead_ok hu
    exact h
  query _ _ _ h _ _ := settle_keeps (fun _ => h) fun _ ht => by
    obtain rfl := primQuery_ok ht
    exact h
  start _ op host a m v h _ hm _ := blockInv_startOperation h hm op host a m v

/-- Settles O56: every part of a step keeps the invariants, and the reset establishes all but the slave's, which it
leaves. -/
theorem stepKeepsTheBlockInvariants : Obligations.StepKeepsTheBlockInvariants := by
  intro s t h hs
  exact blockInv_kept.step h (fun _ _ => blockInv_blockReset h) hs

end Sys2Proof.Proofs
end

section
/-! PROOFS. The order of the phases (10 R32). -/

namespace Sys2Proof.Proofs

open Sys2Proof.Machine Sys2Proof.Laws

variable {s : State}

/-- The sequencer alone moves `PHASE`: each transition to the next, the steps of `initialise` and the return not at
all. -/
theorem sequencerStep_phase (he : sequencerEnabled s = true) :
    (sequencerStep s).phase = s.phase ∨ (sequencerStep s).phase = nextPhase s.phase := by
  have settled {r : Except FaultRec State} (hok : ∀ t, r = .ok t → t.phase = s.phase ∨ t.phase = nextPhase s.phase) :
      (settle s r).phase = s.phase ∨ (settle s r).phase = nextPhase s.phase :=
    settle_keeps (P := fun t => t.phase = s.phase ∨ t.phase = nextPhase s.phase) (fun _ => .inl rfl) hok
  obtain ⟨op, -, ⟨-, -, r, hr, hs⟩ | ⟨hp, -, d, a, v, -, hs⟩ | ⟨-, -, hs⟩ | ⟨hp, -, hs⟩ | ⟨hp, -, hs⟩ |
    ⟨hp, -, hs⟩ | ⟨hp, -, hs⟩ | ⟨hp, hs⟩⟩ := sequencerStep_cases he <;> rw [hs]
  · refine settled fun t ht => .inl ?_
    obtain ⟨u, rfl, rfl⟩ := map_eq_ok_iff.mp ht
    exact (initStage_phase hr : u.phase = s.phase)
  · refine settled fun t ht => .inr ?_
    obtain ⟨-, rfl⟩ := t1_ok ht
    rw [hp]; rfl
  · exact .inl rfl
  · refine settled fun t ht => .inr ?_
    obtain rfl := t2_ok ht
    rw [hp]; rfl
  · refine settled fun t ht => .inr ?_
    obtain ⟨b, n, rfl⟩ := t3_ok ht
    rw [hp]; rfl
  · refine settled fun t ht => .inr ?_
    obtain rfl := t4_ok ht
    rw [hp]; rfl
  · refine settled fun t ht => .inr ?_
    obtain ⟨b, n, rfl⟩ := t5_ok ht
    rw [hp]; rfl
  · refine settled fun t ht => .inr ?_
    obtain ⟨-, rfl⟩ := t6_ok ht
    rw [hp]; rfl

theorem xferStep_phase (s : State) : (xferStep s).phase = s.phase := by
  obtain ⟨f, hx⟩ | ⟨m, t, he, hx⟩ := xferStep_cases s
  · rw [hx]; rfl
  · obtain ⟨sl, rfl, -⟩ := linkExchange_ok he
    obtain ⟨f, hx⟩ | hx := hx <;> rw [hx] <;> rfl

/-- Settles O36: the shifter's steps leave `PHASE`, and the sequencer's moves it to the next or not at all. -/
theorem phasesAdvanceInOrder : Obligations.PhasesAdvanceInOrder := by
  intro t s
  obtain hs | ⟨-, he, hs⟩ | ⟨-, he, hs⟩ | ⟨-, -, hs⟩ | ⟨-, -, hs⟩ := agentStep_cases t s <;> rw [hs]
  · exact .inl rfl
  · exact sequencerStep_phase he
  · obtain ⟨b, -, hl⟩ := loadStep_eq he
    rw [hl]
    exact .inl rfl
  · exact .inl (xferStep_phase s)
  · exact .inl rfl

end Sys2Proof.Proofs
end

section
/-! PROOFS. The reset values (10 R43) and `initialise` from reset (10 R44). -/

namespace Sys2Proof.Proofs

open Sys2Proof.Machine Sys2Proof.Laws

/-- Settles O8: each value is the one `State.reset` is written with. -/
theorem resetLeavesTheListedValues : Obligations.ResetLeavesTheListedValues := by
  unfold Obligations.ResetLeavesTheListedValues
  decide

/-- Reset leaves the block ready for `initialise`. -/
theorem initReady_reset : InitReady State.reset := by decide

/-- The last state of `initialise` issued at reset meets the protocol invariant: no frame is under way, and the slave,
selected, awaits an address (41 R175, R176). -/
theorem protocol_initState_reset (ts : List Turn) : Protocol { initState State.reset 9 false with sched := ts } :=
  ⟨rfl, ⟨rfl, rfl, rfl, rfl, rfl, rfl, rfl⟩, nofun, fun _ => rfl, fun h => absurd rfl h, rfl, rfl, rfl, rfl⟩

theorem controlImage_initCfg : controlImage initCfg true = 0x0347 := by decide

/-- Settles O39: `initialise` runs its course from reset, and its last state holds the listed values. -/
theorem initialiseFromReset : Obligations.InitialiseFromReset := by
  obtain ⟨ts, -, he⟩ := exec_initialise_of_initReady initReady_reset nofun
  exact ⟨_, he, rfl, rfl, rfl, rfl, rfl, rfl, rfl, rfl, rfl, rfl, rfl, rfl, rfl, rfl, rfl,
    controlImage_initCfg, rfl, rfl, protocol_initState_reset ts⟩

end Sys2Proof.Proofs
end

section
/-! PROOFS. The trace (20 R70): no part of a step takes an event back. -/

namespace Sys2Proof.Proofs

open Sys2Proof.Machine Sys2Proof.Laws

variable {s t : State}

/-- A step that settles takes no event back where its new state takes none: a fault leaves the trace (60 R258). -/
theorem settle_trace_prefix {r : Except FaultRec State} (hok : ∀ t, r = .ok t → s.trace <+: t.trace) :
    s.trace <+: (settle s r).trace :=
  settle_keeps (P := fun u => s.trace <+: u.trace) (fun _ => List.prefix_rfl) hok

theorem initStage_trace_prefix {k : Nat} (h : initStage k s = some (.ok t)) : s.trace <+: t.trace := by
  obtain ⟨-, rfl⟩ | ⟨-, rfl⟩ | ⟨-, rfl⟩ | ⟨-, rfl⟩ | ⟨-, h⟩ | ⟨-, h⟩ | ⟨-, h⟩ | ⟨-, h⟩ := initStage_ok h
  · exact List.prefix_append ..
  · exact List.prefix_append ..
  · rw [initPins_eq]
    exact List.prefix_append ..
  · exact List.prefix_append ..
  · obtain ⟨-, rfl⟩ := csDeassert_ok h
    exact List.prefix_append ..
  · obtain ⟨-, rfl⟩ := primConfigure_ok h
    exact List.prefix_rfl
  · obtain ⟨-, rfl⟩ := primEnable_ok h
    exact List.prefix_rfl
  · obtain ⟨-, rfl⟩ := initSelect_ok h
    exact List.prefix_append ..

theorem sequencerStep_trace_prefix (he : sequencerEnabled s = true) : s.trace <+: (sequencerStep s).trace := by
  obtain ⟨op, -, ⟨-, -, r, hr, hs⟩ | ⟨-, -, d, a, v, -, hs⟩ | ⟨-, -, hs⟩ | ⟨-, -, hs⟩ | ⟨-, -, hs⟩ |
    ⟨-, -, hs⟩ | ⟨-, -, hs⟩ | ⟨-, hs⟩⟩ := sequencerStep_cases he <;> rw [hs]
  · refine settle_trace_prefix fun t ht => ?_
    obtain ⟨u, rfl, rfl⟩ := map_eq_ok_iff.mp ht
    exact (initStage_trace_prefix hr : s.trace <+: u.trace)
  · refine settle_trace_prefix fun t ht => ?_
    obtain ⟨-, rfl⟩ := t1_ok ht
    exact List.prefix_append ..
  · exact List.prefix_rfl
  · refine settle_trace_prefix fun t ht => ?_
    obtain rfl := t2_ok ht
    exact List.prefix_append ..
  · refine settle_trace_prefix fun t ht => ?_
    obtain ⟨b, n, rfl⟩ := t3_ok ht
    exact List.prefix_append ..
  · refine settle_trace_prefix fun t ht => ?_
    obtain rfl := t4_ok ht
    exact List.prefix_append ..
  · refine settle_trace_prefix fun t ht => ?_
    obtain ⟨b, n, rfl⟩ := t5_ok ht
    exact List.prefix_append ..
  · refine settle_trace_prefix fun t ht => ?_
    obtain ⟨-, rfl⟩ := t6_ok ht
    exact List.prefix_append ..

/-- S-XFER appends the exchange's event where the exchange has happened, overrun or not (40 R132). -/
theorem xferStep_trace_prefix (s : State) : s.trace <+: (xferStep s).trace := by
  obtain ⟨f, hx⟩ | ⟨m, t, he, hx⟩ := xferStep_cases s
  · rw [hx]
    exact List.prefix_rfl
  · obtain ⟨sl, rfl, -⟩ := linkExchange_ok he
    obtain ⟨f, hx⟩ | hx := hx <;> rw [hx] <;> exact List.prefix_append ..

theorem agentStep_trace_prefix (t : Turn) (s : State) : s.trace <+: (agentStep t s).trace := by
  obtain hs | ⟨-, he, hs⟩ | ⟨-, he, hs⟩ | ⟨-, -, hs⟩ | ⟨-, -, hs⟩ := agentStep_cases t s
  · rw [hs]
  · rw [hs]
    exact sequencerStep_trace_prefix he
  · obtain ⟨b, -, hl⟩ := loadStep_eq he
    rw [hs, hl]
  · rw [hs]
    exact xferStep_trace_prefix s
  · rw [hs]
    exact List.prefix_rfl

/-- Every part of a step keeps the events recorded so far: `write`, `read` and an agent's step append their own, and
what is left records none. -/
theorem trace_prefix_kept (l : List Event) : Kept fun s => l <+: s.trace where
  agent t s h := h.trans (agentStep_trace_prefix t s)
  sched _ _ h := h
  program _ _ h := h
  reentry _ _ _ h _ _ := h
  ownership _ _ h _ _ := h
  notInitialised _ _ h _ _ := h
  alreadyInitialised _ h _ _ := h
  stray _ _ _ h _ := h
  illegal _ _ h _ := h
  configure _ _ h _ _ _ := h.trans <| settle_trace_prefix fun _ ht => by
    obtain ⟨-, rfl⟩ := primConfigure_ok ht
    exact List.prefix_rfl
  enable _ h _ _ _ := h.trans <| settle_trace_prefix fun _ ht => by
    obtain ⟨-, rfl⟩ := primEnable_ok ht
    exact List.prefix_rfl
  disable _ h _ _ _ := h.trans <| settle_trace_prefix fun _ ht => by
    obtain ⟨-, rfl⟩ := primDisable_ok ht
    exact List.prefix_rfl
  write _ _ h _ _ _ := h.trans <| settle_trace_prefix fun _ ht => by
    obtain ⟨-, -, -, rfl⟩ := primWrite_ok ht
    exact List.prefix_append ..
  read _ h _ _ _ := h.trans <| settle_trace_prefix fun _ ht => by
    obtain ⟨⟨b, u⟩, hu, rfl⟩ := map_eq_ok_iff.mp ht
    obtain ⟨n, rfl⟩ := primRead_ok hu
    exact List.prefix_append ..
  query _ _ _ h _ _ := h.trans <| settle_trace_prefix fun _ ht => by
    obtain rfl := primQuery_ok ht
    exact List.prefix_rfl
  start _ _ _ _ _ _ h _ _ _ := h

/-- Settles O59: every part of a step keeps the events recorded before it, and the reset leaves the trace, which is no
state of the block (70 R280; log 22). -/
theorem traceOnlyGrows : Obligations.TraceOnlyGrows := by
  intro s t hs
  refine (trace_prefix_kept s.trace).step List.prefix_rfl (fun ts _ => ?_) hs
  rw [blockReset_trace]

end Sys2Proof.Proofs
end

section
/-! PROOFS. The answer to a frame (20 R74 to R81): the slave's decode by its phase, and the exchange over it. -/

namespace Sys2Proof.Proofs

open Sys2Proof.Machine Sys2Proof.Laws

variable {s : State} {sl sl' : Slave} {w : WireCfg} {b m v : Byte} {a : Addr7} {n : Nat} {f : FaultRec}

/-! ### The kinds of slave (20 R74, R78, R79) -/

theorem slaveReadValue_echo (h : sl.kind = .echo) : slaveReadValue sl a n = Memory.read sl.regs a.toNat := by
  simp only [slaveReadValue, h]

theorem slaveReadValue_free (h : sl.kind = .free) : slaveReadValue sl a n = Config.draw n := by
  simp only [slaveReadValue, h]

theorem slaveReadValue_device (h : sl.kind = .device) : slaveReadValue sl a n = Config.deviceRead sl.device a n := by
  simp only [slaveReadValue, h]

theorem slaveWriteValue_echo (h : sl.kind = .echo) :
    slaveWriteValue sl a v = { sl with regs := Memory.write sl.regs a.toNat v } := by
  simp only [slaveWriteValue, h]

theorem slaveWriteValue_free (h : sl.kind = .free) : slaveWriteValue sl a v = sl := by
  simp only [slaveWriteValue, h]

theorem slaveWriteValue_device (h : sl.kind = .device) :
    slaveWriteValue sl a v = { sl with device := Config.deviceWrite sl.device a v } := by
  simp only [slaveWriteValue, h]

/-! ### One frame at the slave (20 R77, R81) -/

theorem slaveFrame_framing_mismatch (h : w ≠ requiredWire) : slaveFrame sl w b n = .error (.framingMismatch w) := by
  simp only [slaveFrame, if_pos h]

/-- The first frame is an address byte: bit 7 is the direction, bits 6 to 0 the address. -/
theorem slaveFrame_awaitAddr (h : sl.phase = .awaitAddr) : slaveFrame sl requiredWire b n =
    .ok ({ sl with phase := .awaitData (b.getLsbD 7) (b.extractLsb' 0 7) }, Config.draw n) := by
  simp [slaveFrame, h, directionOf, addressOf]

theorem slaveFrame_awaitData_read (h : sl.phase = .awaitData true a) : slaveFrame sl requiredWire b n =
    .ok ({ sl with phase := .done }, slaveReadValue sl a n) := by
  simp [slaveFrame, h]

theorem slaveFrame_awaitData_write (h : sl.phase = .awaitData false a) : slaveFrame sl requiredWire b n =
    .ok ({ slaveWriteValue sl a b with phase := .done }, Config.draw n) := by
  simp [slaveFrame, h]

/-- Under `FreeSlave` both directions look alike: the answer is free and nothing is stored (log 35). -/
theorem slaveFrame_awaitData_free {d : Bool} (h : sl.phase = .awaitData d a) (hk : sl.kind = .free) :
    slaveFrame sl requiredWire b n = .ok ({ sl with phase := .done }, Config.draw n) := by
  cases d with
  | true => rw [slaveFrame_awaitData_read h, slaveReadValue_free hk]
  | false => rw [slaveFrame_awaitData_write h, slaveWriteValue_free hk]

theorem slaveFrame_done (h : sl.phase = .done) : slaveFrame sl requiredWire b n = .error (.slaveOverlong b) := by
  simp [slaveFrame, h]

/-! ### The exchange over the link (20 R75) -/

theorem selected_eq_true (hd : s.csDrv = true) (hc : s.csN = false) : s.selected = true := by
  simp [State.selected, hd, hc]

theorem selected_eq_false (h : s.csDrv = false ∨ s.csN = true) : s.selected = false := by
  obtain h | h := h <;> simp [State.selected, h]

theorem linkExchange_not_selected (h : s.selected = false) : linkExchange b s = .ok (Config.draw s.draws,
    { s with draws := s.draws + 1, trace := s.trace ++ [.xfer b (Config.draw s.draws)] }) := by
  simp [linkExchange, h, emit]

theorem linkExchange_selected_ok (h : s.selected = true)
    (hf : slaveFrame s.slave s.wireCfg b s.draws = .ok (sl', m)) : linkExchange b s = .ok (m,
      { s with slave := sl', draws := s.draws + 1, trace := s.trace ++ [.xfer b m] }) := by
  simp [linkExchange, h, hf, emit]

theorem linkExchange_selected_error (h : s.selected = true)
    (hf : slaveFrame s.slave s.wireCfg b s.draws = .error f) : linkExchange b s = .error f := by
  simp [linkExchange, h, hf]

/-- Settles O28: an exchange is the frame at the selected slave, which decodes it by its phase and answers by its
kind. -/
theorem linkExchangeAnswers : Obligations.LinkExchangeAnswers := by
  intro s b
  refine ⟨fun h => linkExchange_not_selected (selected_eq_false h), fun hd hc => ?_, fun a n v => ?_⟩
  · have hsel := selected_eq_true hd hc
    refine ⟨fun hw => linkExchange_selected_error hsel (slaveFrame_framing_mismatch hw), fun hw => ?_⟩
    have answered {sl' m} (hf : slaveFrame s.slave requiredWire b s.draws = .ok (sl', m)) :=
      linkExchange_selected_ok hsel (hw ▸ hf)
    refine ⟨fun hp => answered (slaveFrame_awaitAddr hp), fun a hp => answered (slaveFrame_awaitData_read hp),
      fun a hp => answered (slaveFrame_awaitData_write hp),
      fun d a hp hk => answered (slaveFrame_awaitData_free hp hk), fun hp => ?_⟩
    exact linkExchange_selected_error hsel (hw ▸ slaveFrame_done hp)
  · exact ⟨fun hk => ⟨slaveReadValue_echo hk, slaveWriteValue_echo hk⟩,
      fun hk => ⟨slaveReadValue_free hk, slaveWriteValue_free hk⟩,
      fun hk => ⟨slaveReadValue_device hk, slaveWriteValue_device hk⟩⟩

end Sys2Proof.Proofs
end

section
/-! PROOFS. The encodings (30 R90 to R108): a word is the parts it is made of, and from that decoder and encoder are
inverse to each other. -/

namespace Sys2Proof.Proofs

open Sys2Proof.Machine Sys2Proof.Laws

/-! ### The control image (30 R94, R95) -/

/-- A code is the code of the divisor it stands for. -/
@[simp] theorem baudCode_baudOfCode (code : BitVec 3) : baudCode (baudOfCode code) = code := by
  revert code; decide

theorem baudDivisorOk_baudOfCode (code : BitVec 3) : baudOfCode code ∈ [2, 4, 8, 16, 32, 64, 128, 256] := by
  revert code; decide

/-- A two-valued field is read back from its bit. -/
theorem decide_ite_eq {α : Type} [DecidableEq α] {x y : α} (h : y ≠ x) (b : Bool) :
    decide ((if b = true then x else y) = x) = b := by
  cases b <;> simp [h]

/-- `SSM` and `SSI` of the slave-select mode that a pair of bits names (30 R95). -/
theorem slaveSelect_bits {ssm ssi : Bool} (h : (!ssm && ssi) = false) {ss : SlaveSelect}
    (hs : ss = if ssm then (if ssi then .softwareHigh else .softwareLow) else .hardware) :
    ssmOf ss = ssm ∧ ssiOf ss = ssi := by
  revert h; subst hs
  cases ssm <;> cases ssi <;> decide

/-- An image is its fields, the three that are to be 0 among them (30 R94, R98). -/
theorem image_eq_append (img : Word16) :
    img.extractLsb' 12 4 ++ BitVec.ofBool (img.getLsbD 11) ++ BitVec.ofBool (img.getLsbD 10)
      ++ BitVec.ofBool (img.getLsbD 9) ++ BitVec.ofBool (img.getLsbD 8) ++ BitVec.ofBool (img.getLsbD 7)
      ++ BitVec.ofBool (img.getLsbD 6) ++ img.extractLsb' 3 3 ++ BitVec.ofBool (img.getLsbD 2)
      ++ BitVec.ofBool (img.getLsbD 1) ++ BitVec.ofBool (img.getLsbD 0) = img := by
  apply BitVec.eq_of_getLsbD_eq
  intro i hi
  simp only [BitVec.getLsbD_append, BitVec.getLsbD_extractLsb', BitVec.getLsbD_ofBool]
  interval_cases i <;> simp

/-- An image that names a configuration is the image of it, and the configuration is well-formed. -/
theorem controlImage_of_cfgOfImage {img : Word16} {c : Cfg} (h : cfgOfImage img = .ok c) :
    controlImage c false = img ∧ c.WellFormed := by
  unfold cfgOfImage at h
  split at h
  · cases h
  · next hzero =>
    split at h
    · cases h
    · next hpair =>
      obtain rfl := Except.ok.inj h
      simp only [not_or, not_not, Bool.not_eq_true] at hzero hpair
      obtain ⟨h12, h10, h6⟩ := hzero
      obtain ⟨hssm, hssi⟩ := slaveSelect_bits hpair rfl
      refine ⟨?_, ?_, baudDivisorOk_baudOfCode _⟩
      · conv_rhs => rw [← image_eq_append img, h12, h10, h6]
        simp only [controlImage, baudCode_baudOfCode, decide_ite_eq, hssm, hssi, ne_eq, reduceCtorEq,
          Nat.reduceEqDiff, not_false_eq_true]
        rfl
      · dsimp only [Cfg.frameWidthOk]
        split <;> simp

/-! ### The parts of a word (30 R98, R91) -/

/-- An image is two Bytes. -/
theorem exists_eq_append (img : Word16) : ∃ m v : Byte, img = m ++ v :=
  ⟨img.extractLsb' 8 8, img.extractLsb' 0 8, (BitVec.extractLsb'_append_extractLsb' (w := 8) (len := 8)).symm⟩

/-- The word of `configure` has the two Bytes of its image in the fields mask and value (30 R98). -/
theorem encode_configure {c : Cfg} {m v : Byte} (h : controlImage c false = m ++ v) :
    encode (.configure c) = cmdWord 0x01 0 m v := by
  have hhigh : (0x01#8 ++ 0#8 : BitVec 16) = 0x01#8 ++ 0#1 ++ 0#7 := rfl
  have hword : (0x01#8 ++ 0#8 ++ (m ++ v) : Word32) = packFields ⟨0x01, 0, 0, m, v⟩ := by
    rw [BitVec.append_assoc', BitVec.cast_eq, hhigh]
    rfl
  simp only [encode, cmdWord, h]
  exact congrArg PortWord.cmd hword

/-- A wire pattern is its direction, address and second frame (30 R91). -/
theorem wirePattern_of_bits (w : Word16) :
    wirePattern (w.getLsbD 15) (w.extractLsb' 8 7) (w.extractLsb' 0 8) = w := by
  apply BitVec.eq_of_getLsbD_eq
  intro i hi
  simp only [wirePattern, BitVec.getLsbD_append, BitVec.getLsbD_extractLsb', BitVec.getLsbD_ofBool]
  interval_cases i <;> simp

/-- Its direction, address and second frame are read back from a wire pattern. -/
theorem wirePattern_bits (d : Bool) (a : Addr7) (v : Byte) :
    (wirePattern d a v).getLsbD 15 = d ∧ (wirePattern d a v).extractLsb' 8 7 = a ∧
      (wirePattern d a v).extractLsb' 0 8 = v := by
  refine ⟨?_, ?_, (wirePattern_frames d a v).2⟩
  · simp only [wirePattern, BitVec.getLsbD_append, BitVec.getLsbD_ofBool]
    simp
  · apply BitVec.eq_of_getLsbD_eq
    intro i hi
    simp only [wirePattern, BitVec.getLsbD_append, BitVec.getLsbD_extractLsb']
    grind

/-! ### Axis codes (30 R103) -/

@[simp] theorem axisOfCode_axisCode (ax : Axis) : axisOfCode (axisCode ax) = .ok ax := by
  cases ax <;> rfl

theorem axisCode_of_axisOfCode {v : Byte} {ax : Axis} (h : axisOfCode v = .ok ax) : axisCode ax = v := by
  unfold axisOfCode at h
  split at h
  · cases h
  · split at h <;> cases h
    · next hv => exact (BitVec.eq_of_toNat_eq hv).symm
    · next hv => exact (BitVec.eq_of_toNat_eq hv).symm
    · next hv => exact (BitVec.eq_of_toNat_eq hv).symm

/-! ### Decoding an encoded instruction (30 R108) -/

/-- Settles O1: each operation's code selects its own arm of the decoder, and the operands are read back from the
fields they were put in. -/
theorem decodeOfEncodeIsTheInstruction : Obligations.DecodeOfEncodeIsTheInstruction := by
  intro i h
  cases i with
  | configure c =>
    have hc := cfgOfImage_controlImage (of_decide_eq_true h)
    obtain ⟨m, v, himg⟩ := exists_eq_append (controlImage c false)
    rw [himg] at hc
    simp [encode_configure himg, decode, cmdWord, decodeCmd, hc, Except.map]
  | getAxisValue ax => simp [encode, cmdWord, decode, decodeCmd, Except.map]
  | readRegisterWire a =>
    obtain ⟨hd, ha, hv⟩ := wirePattern_bits true a 0
    simp only [encode, decode, decodeWire, hd, ha, hv, if_true]
  | writeRegisterWire a v =>
    obtain ⟨hd, ha, hv⟩ := wirePattern_bits false a v
    simp only [encode, decode, decodeWire, hd, ha, hv, Bool.false_eq_true, if_false]
  | _ => simp [encode, cmdWord, decode, decodeCmd, whenUnusedZero]

/-! ### Encoding a decoded word (30 R108, R92) -/

theorem whenUnusedZero_eq_ok_iff {zero : Bool} {i j : Instr} :
    whenUnusedZero zero i = .ok j ↔ zero = true ∧ i = j := by
  cases zero <;> simp [whenUnusedZero]

/-- A mapped decoding succeeds exactly where the decoding does. -/
theorem map_illegal_eq_ok_iff {α β : Type} {r : Except Illegal α} {f : α → β} {y : β} :
    r.map f = .ok y ↔ ∃ x, r = .ok x ∧ f x = y := by
  cases r <;> simp [Except.map]

/-- A legal command word is packed from its operation code, its operands, and zeros in the fields the operation does not
use (30 R98, R101). -/
theorem encode_of_decodeCmd {w : Word32} {i : Instr} (h : decodeCmd w = .ok i) :
    encode i = .cmd w ∧ i.WellFormed := by
  obtain ⟨⟨opc, z, a, m, v⟩, rfl⟩ : ∃ f, packFields f = w := ⟨fieldsOf w, packFields_fieldsOf w⟩
  simp only [decodeCmd, fieldsOf_packFields] at h
  split at h
  -- no operation code (30 R99)
  case h_17 => cases h
  all_goals
    rename_i hopc
    obtain ⟨-, rfl⟩ := BitVec.toNat_eq_nat.mp hopc
  -- `configure`: mask and value hold the image
  case h_1 =>
    split at h
    · next hzero =>
      obtain ⟨c, hc, rfl⟩ := map_illegal_eq_ok_iff.mp h
      obtain ⟨himg, hwf⟩ := controlImage_of_cfgOfImage hc
      simp only [Bool.and_eq_true, beq_iff_eq] at hzero
      simp [encode_configure himg, cmdWord, hzero, Instr.WellFormed, Instr.wellFormed, hwf]
    · cases h
  -- `getAxisValue`: the value holds the axis code
  case h_15 =>
    split at h
    · next hzero =>
      obtain ⟨ax, hax, rfl⟩ := map_illegal_eq_ok_iff.mp h
      simp only [Bool.and_eq_true, beq_iff_eq] at hzero
      simp [encode, axisCode_of_axisOfCode hax, cmdWord, hzero, Instr.WellFormed, Instr.wellFormed]
    · cases h
  -- every other operand is a field of the word as it stands
  all_goals
    obtain ⟨hzero, rfl⟩ := whenUnusedZero_eq_ok_iff.mp h
    simp only [Bool.and_eq_true, beq_iff_eq] at hzero
    simp [encode, cmdWord, hzero, Instr.WellFormed, Instr.wellFormed]

theorem encode_of_decodeWire {w : Word16} {i : Instr} (h : decodeWire w = .ok i) :
    encode i = .wire w ∧ i.WellFormed := by
  have hw := wirePattern_of_bits w
  unfold decodeWire at h
  split at h
  · next hd =>
    split at h <;> cases h
    next hv => exact ⟨congrArg PortWord.wire (by rwa [hd, hv] at hw), rfl⟩
  · next hd =>
    cases h
    rw [Bool.eq_false_iff.mpr hd] at hw
    exact ⟨congrArg PortWord.wire hw, rfl⟩

/-- Settles O2: a word is the fields the decoder read it by. -/
theorem encodeOfDecodeIsTheWord : Obligations.EncodeOfDecodeIsTheWord := by
  intro w i h
  cases w with
  | cmd w => exact encode_of_decodeCmd h
  | wire w => exact encode_of_decodeWire h

end Sys2Proof.Proofs
end

section
/-! PROOFS. Listed words, and the layouts of the address byte, of the images and of a frame on the wire (30 R90 to R101,
95 section 2.4). -/

namespace Sys2Proof.Proofs

open Sys2Proof.Machine Sys2Proof.Laws

/-- Settles O3: the decoder evaluated on each listed word. -/
theorem listedWordsDecode : Obligations.ListedWordsDecode := by
  unfold Obligations.ListedWordsDecode
  decide

/-! ### The address byte (30 R90) -/

theorem addressByte_eq_or (d : Bool) (a : Addr7) :
    addressByte d a = (if d then 0x80#8 else 0x00#8) ||| a.setWidth 8 := by
  revert d a; decide

@[simp] theorem addressByte_directionOf_addressOf (b : Byte) : addressByte (directionOf b) (addressOf b) = b := by
  revert b; decide

/-- Settles O4: direction and address determine the byte and are determined by it. -/
theorem addressByteIsDirectionAndAddress : Obligations.AddressByteIsDirectionAndAddress :=
  ⟨fun d a => ⟨addressByte_eq_or d a, directionOf_addressByte d a, addressOf_addressByte d a,
    directionOf_addressByte d a, addressOf_addressByte d a⟩, addressByte_directionOf_addressOf⟩

/-! ### The images (30 R94 to R97) -/

theorem ssmOf_eq_decide (ss : SlaveSelect) : ssmOf ss = decide (ss ≠ .hardware) := by cases ss <;> rfl

theorem ssiOf_eq_decide (ss : SlaveSelect) : ssiOf ss = decide (ss = .softwareHigh) := by cases ss <;> rfl

theorem controlImage_baudCode (c : Cfg) (en : Bool) :
    (controlImage c en).extractLsb' 3 3 = baudCode c.baudDivisor := by
  apply BitVec.eq_of_getLsbD_eq
  intro i hi
  simp only [controlImage, BitVec.getLsbD_append, BitVec.getLsbD_extractLsb']
  interval_cases i <;> simp

theorem controlImage_high (c : Cfg) (en : Bool) : (controlImage c en).extractLsb' 12 4 = 0 := by
  apply BitVec.eq_of_getLsbD_eq
  intro i hi
  simp only [controlImage, BitVec.getLsbD_append, BitVec.getLsbD_extractLsb']
  interval_cases i <;> simp

/-- Settles O5: each field of the image stands at its bits. -/
theorem controlImageLayout : Obligations.ControlImageLayout := by
  refine ⟨fun c en => ⟨?_, ?_, ?_, controlImage_baudCode c en, ?_, ?_, ?_, ?_, ?_, ?_, controlImage_high c en⟩,
    by decide, by decide⟩
  all_goals
    simp only [controlImage, BitVec.getLsbD_append, BitVec.getLsbD_ofBool, ← ssmOf_eq_decide, ← ssiOf_eq_decide]
    simp

/-- Settles O6: the three flags stand at their bits, and every other bit is one of the zeros between them. -/
theorem statusImageLayout : Obligations.StatusImageLayout := by
  refine ⟨fun s => ⟨?_, ?_, ?_, fun i h0 h1 h7 => ?_⟩, by decide⟩
  all_goals
    simp only [statusImage, BitVec.getLsbD_append, BitVec.getLsbD_ofBool]
  · simp [State.rxne]
  · simp [State.txe]
  · simp
  · simp only [BitVec.getLsbD_zero]
    grind

/-! ### A frame on the wire (30 R93) -/

/-- The bits of a Byte in the order a frame sends them. -/
def msbFirst (b : Byte) : List Bool := (List.range 8).map fun k => b.getLsbD (7 - k)

@[simp] theorem length_msbFirst (b : Byte) : (msbFirst b).length = 8 := rfl

/-- In eight bit times each side samples every bit of the other's Byte. -/
theorem bitTimes_eq (tx answer : Byte) : bitTimes tx answer = ⟨msbFirst answer, msbFirst tx⟩ := rfl

@[simp] theorem byteOfBits_msbFirst (b : Byte) : byteOfBits (msbFirst b) = b := by
  revert b; decide

/-- Settles O7: a Byte is put together again from the bits it was sent as. -/
theorem bitSerialFrameExchangesTheBytes : Obligations.BitSerialFrameExchangesTheBytes := by
  intro tx answer
  simp only [bitTimes_eq, byteOfBits_msbFirst, length_msbFirst, and_self]

end Sys2Proof.Proofs
end

section
/-! PROOFS. What a word or an operation leaves alone: a command word that is no operation (30 R101), and `RESULT` under
an operation that returns nothing (30 R102, 41 R160). -/

namespace Sys2Proof.Proofs

open Sys2Proof.Machine Sys2Proof.Laws

variable {s t : State} {op : Op}

/-- The host's turn issues its next word, in the state without the turn and the word (70 R298; log 13). -/
theorem step_host {ts : List Turn} {w : PortWord} {ws : List PortWord} (hs : s.sched = .host :: ts)
    (hp : s.program = w :: ws) : step s = issueWord w { s with sched := ts, program := ws } := by
  simp [step, takeTurn, hs, hostTurn, takeWord, hp]

theorem issueWord_illegal {s : State} {w : Word32} {e : Illegal} (hf : s.fault = none) (hw : decodeCmd w = .error e) :
    issueWord (.cmd w) s = .next (raise (.illegalCommand w) s) := by
  simp [issueWord, decode, hw, illegalWord, hf]

/-- Settles O11: the word is used up, and the issue of it records the fault. -/
theorem illegalWordIsRecorded : Obligations.IllegalWordIsRecorded := by
  intro s ts w ws e hf hs hp hw
  rw [step_host hs hp]
  exact issueWord_illegal hf hw

/-! ### What leaves `RESULT` (30 R102, 41 R160) -/

/-- The return of the operation gives no value (30 R99). -/
def ReturnsNothing (op : Op) : Prop := ∀ s, returnValue op s = none

/-- `RESULT` is `r`, and the return of the operation in progress will not write it. -/
def ResultStays (r : Word16) (s : State) : Prop :=
  s.result = r ∧ ∀ op, s.mop = some op → s.hostIssued = true → ReturnsNothing op

variable {r : Word16}

theorem resultStays_initStage {k : Nat} (h : ResultStays r s) (ht : initStage k s = some (.ok t)) :
    ResultStays r t := by
  obtain ⟨-, rfl⟩ | ⟨-, rfl⟩ | ⟨-, rfl⟩ | ⟨-, rfl⟩ | ⟨-, ht⟩ | ⟨-, ht⟩ | ⟨-, ht⟩ | ⟨-, ht⟩ := initStage_ok ht
  · exact h
  · exact h
  · rw [initPins_eq]
    exact h
  · exact h
  · obtain ⟨-, rfl⟩ := csDeassert_ok ht
    exact h
  · obtain ⟨-, rfl⟩ := primConfigure_ok ht
    exact h
  · obtain ⟨-, rfl⟩ := primEnable_ok ht
    exact h
  · obtain ⟨-, rfl⟩ := initSelect_ok ht
    exact h

theorem resultStays_returnStep (h : ResultStays r s) (hm : s.mop = some op) : ResultStays r (returnStep op s) := by
  obtain ⟨hr, hop⟩ := h
  refine ⟨?_, nofun⟩
  unfold returnStep
  split
  · next hi => simpa [hop op hm hi s] using hr
  · exact hr

/-- No transition but the return writes `RESULT` or changes which operation is in progress. -/
theorem resultStays_sequencerStep (h : ResultStays r s) (he : sequencerEnabled s = true) :
    ResultStays r (sequencerStep s) := by
  have settled {x : Except FaultRec State} (hok : ∀ t, x = .ok t → ResultStays r t) : ResultStays r (settle s x) :=
    settle_keeps (fun _ => h) hok
  obtain ⟨op, hm, ⟨-, -, x, hx, hs⟩ | ⟨-, -, d, a, v, -, hs⟩ | ⟨-, -, hs⟩ | ⟨-, -, hs⟩ | ⟨-, -, hs⟩ |
    ⟨-, -, hs⟩ | ⟨-, -, hs⟩ | ⟨-, hs⟩⟩ := sequencerStep_cases he <;> rw [hs]
  · refine settled fun t ht => ?_
    obtain ⟨u, rfl, rfl⟩ := map_eq_ok_iff.mp ht
    exact (resultStays_initStage h hx : ResultStays r u)
  · refine settled fun t ht => ?_
    obtain ⟨-, rfl⟩ := t1_ok ht
    exact h
  · exact resultStays_returnStep h hm
  · refine settled fun t ht => ?_
    obtain rfl := t2_ok ht
    exact h
  · refine settled fun t ht => ?_
    obtain ⟨b, n, rfl⟩ := t3_ok ht
    exact h
  · refine settled fun t ht => ?_
    obtain rfl := t4_ok ht
    exact h
  · refine settled fun t ht => ?_
    obtain ⟨b, n, rfl⟩ := t5_ok ht
    exact h
  · refine settled fun t ht => ?_
    obtain ⟨-, rfl⟩ := t6_ok ht
    exact h

theorem resultStays_xferStep (h : ResultStays r s) : ResultStays r (xferStep s) := by
  obtain ⟨f, hx⟩ | ⟨m, t, he, hx⟩ := xferStep_cases s
  · rw [hx]
    exact h
  · obtain ⟨sl, rfl, -⟩ := linkExchange_ok he
    obtain ⟨f, hx⟩ | hx := hx <;> rw [hx] <;> exact h

theorem resultStays_agentStep (t : Turn) (s : State) (h : ResultStays r s) : ResultStays r (agentStep t s) := by
  obtain hs | ⟨-, he, hs⟩ | ⟨-, he, hs⟩ | ⟨-, -, hs⟩ | ⟨-, -, hs⟩ := agentStep_cases t s <;> rw [hs]
  · exact h
  · exact resultStays_sequencerStep h he
  · obtain ⟨b, -, hl⟩ := loadStep_eq he
    rw [hl]
    exact h
  · exact resultStays_xferStep h
  · exact h

/-- The run of an operation leaves `RESULT` where the host did not issue it or its return gives no value. -/
theorem runOperation_result {host : Bool} (hop : host = true → ReturnsNothing op) :
    (runOperation (startOperation op host s)).result = s.result := by
  have h0 : ResultStays s.result (startOperation op host s) := by
    refine ⟨rfl, fun o hm hi => ?_⟩
    obtain rfl : op = o := Option.some.inj hm
    exact hop hi
  exact (runOperation_keeps resultStays_agentStep (fun _ _ h => h) h0).1

theorem issuePrimitive_result {owned : Bool} {body : State → Except FaultRec State}
    (hbody : ∀ t, body s = .ok t → t.result = s.result) : (issuePrimitive op owned body s).result = s.result := by
  obtain hs | ⟨f, hs⟩ | ⟨-, -, -, t, ht, hs⟩ := issuePrimitive_cases op owned body s <;> rw [hs]
  · rfl
  · exact hbody t ht

theorem issueOperation_result {latch : State → State} (hop : ReturnsNothing op)
    (hl : (latch s).result = s.result) : (issueOperation op latch s).result = s.result := by
  obtain hs | ⟨f, hs⟩ | ⟨-, -, -, hs⟩ := issueOperation_cases op latch s <;> rw [hs]
  · rfl
  · exact (runOperation_result fun _ => hop).trans hl

theorem issueTransaction_result {latch : State → State} (hl : (latch s).result = s.result) :
    (issueTransaction op latch s).result = s.result := by
  obtain hs | ⟨f, hs⟩ | ⟨-, -, hs⟩ := issueTransaction_cases op latch s <;> rw [hs]
  · rfl
  · exact (runOperation_result fun h => absurd h Bool.false_ne_true).trans hl

theorem execSetFieldValue_result {a : Addr7} {m v : Byte} (h : execSetFieldValue a m v s = .next t) :
    t.result = s.result := by
  unfold execSetFieldValue at h
  split at h <;> cases h
  · rfl
  · exact issueOperation_result (fun _ => rfl) rfl

/-- Settles O49: no primitive of the list writes `RESULT`, and the run of an operation writes it at its return alone,
with the value the operation gives. -/
theorem onlyValueOperationsWriteResult : Obligations.OnlyValueOperationsWriteResult := by
  intro s t i hi he
  simp only [List.mem_cons, List.not_mem_nil, or_false] at hi
  obtain (rfl | rfl | rfl) | ⟨c, rfl⟩ | ⟨b, rfl⟩ | ⟨a, v, rfl⟩ | ⟨a, m, rfl⟩ | ⟨a, m, v, rfl⟩ |
    ⟨a, rfl⟩ | ⟨a, v, rfl⟩ := hi
  case inr.inr.inr.inr.inr.inl => exact execSetFieldValue_result he
  all_goals cases he
  · refine issuePrimitive_result fun t ht => ?_
    obtain ⟨-, rfl⟩ := primEnable_ok ht
    rfl
  · refine issuePrimitive_result fun t ht => ?_
    obtain ⟨-, rfl⟩ := primDisable_ok ht
    rfl
  · exact issueOperation_result (fun _ => rfl) rfl
  · refine issuePrimitive_result fun t ht => ?_
    obtain ⟨-, rfl⟩ := primConfigure_ok ht
    rfl
  · refine issuePrimitive_result fun t ht => ?_
    obtain ⟨-, -, -, rfl⟩ := primWrite_ok ht
    rfl
  · exact issueOperation_result (fun _ => rfl) rfl
  · exact issueOperation_result (fun _ => rfl) rfl
  · exact issueTransaction_result rfl
  · exact issueTransaction_result rfl

end Sys2Proof.Proofs
end

section
/-! PROOFS. The SPIM primitives as the host issues them (40 R120 to R128): the checks they have in common, what a run
leaves alone, and what each does where its checks pass. -/

namespace Sys2Proof.Proofs

open Sys2Proof.Machine Sys2Proof.Laws

variable {s t : State} {op : Op} {owned : Bool} {i : Instr} {body : State → Except FaultRec State}
  {flag : State → Bool}

/-! ### The common checks (40 R120, 60 R257) -/

theorem clocked_ready {α : Type} {r : Except FaultRec α} (h : PrimitiveReady s) : clocked op s r = r := by
  obtain ⟨-, -, hclk⟩ := h
  simp [clocked, hclk]

theorem clocked_off {α : Type} {r : Except FaultRec α} (h : s.spiClk = false) :
    clocked op s r = .error (.clockOff op) := by
  simp [clocked, h]

theorem issuePrimitive_faulted (h : s.fault ≠ none) : issuePrimitive op owned body s = s :=
  if_pos (Option.isSome_iff_ne_none.mpr h)

theorem issuePrimitive_reentry {r : Op} (hf : s.fault = none) (hm : s.mop = some r) :
    issuePrimitive op owned body s = raise (.reentry op r) s := by
  simp [issuePrimitive, primitiveCheck, hf, hm]

theorem issuePrimitive_ownership (hf : s.fault = none) (hm : s.mop = none) (ho : owned = true)
    (hi : s.initDone = true) : issuePrimitive op owned body s = raise (.ownershipViolation op) s := by
  simp [issuePrimitive, primitiveCheck, hf, hm, ho, hi]

theorem issuePrimitive_runs (hf : s.fault = none) (hm : s.mop = none) (ho : owned = true → s.initDone = false) :
    issuePrimitive op owned body s = settle s (body s) := by
  have hown : ¬(owned && s.initDone) = true := by simpa using ho
  simp [issuePrimitive, primitiveCheck, hf, hm, hown]

/-! ### What a primitive leaves alone (40 R136) -/

/-- `s` with the fields of `u` that some primitive can write. -/
def withSpimOf (u s : State) : State :=
  { s with
    cfg := u.cfg, cfgValid := u.cfgValid, en := u.en, txBuf := u.txBuf, rxBuf := u.rxBuf, result := u.result
    fault := u.fault, trace := u.trace, draws := u.draws }

/-- From `s` to `t` only fields that a primitive can write have changed, `TXBUF` under `write` alone and `RXBUF` under
`read` alone. -/
structure PrimitiveFrame (i : Instr) (s t : State) : Prop where
  others : t = withSpimOf t s
  txBuf : (∀ b, i ≠ .write b) → t.txBuf = s.txBuf
  rxBuf : i ≠ .read → t.rxBuf = s.rxBuf

theorem PrimitiveFrame.refl : PrimitiveFrame i s s := ⟨rfl, fun _ => rfl, fun _ => rfl⟩

theorem PrimitiveFrame.raise {f : FaultRec} : PrimitiveFrame i s (Machine.raise f s) :=
  ⟨rfl, fun _ => rfl, fun _ => rfl⟩

/-! ### The eight primitives -/

/-- `i` is the primitive `op`, one of the five of check (3) where `owned`: its meaning is the issue of `body`, which
checks its clock first and writes no more than a primitive may. -/
structure IsPrimitive (i : Instr) (op : Op) (owned : Bool) (body : State → Except FaultRec State) : Prop where
  exec_eq : ∀ s, exec i s = .next (issuePrimitive op owned body s)
  body_clockOff : ∀ s, s.spiClk = false → body s = .error (.clockOff op)
  body_frame : ∀ s t, body s = .ok t → PrimitiveFrame i s t

theorem isPrimitive_configure (c : Cfg) : IsPrimitive (.configure c) .configure true (primConfigure c) where
  exec_eq _ := rfl
  body_clockOff _ h := clocked_off h
  body_frame _ _ h := by
    obtain ⟨-, rfl⟩ := primConfigure_ok h
    exact ⟨rfl, fun _ => rfl, fun _ => rfl⟩

theorem isPrimitive_enable : IsPrimitive .enable .enable true primEnable where
  exec_eq _ := rfl
  body_clockOff _ h := clocked_off h
  body_frame _ _ h := by
    obtain ⟨-, rfl⟩ := primEnable_ok h
    exact ⟨rfl, fun _ => rfl, fun _ => rfl⟩

theorem isPrimitive_disable : IsPrimitive .disable .disable true primDisable where
  exec_eq _ := rfl
  body_clockOff _ h := clocked_off h
  body_frame _ _ h := by
    obtain ⟨-, rfl⟩ := primDisable_ok h
    exact ⟨rfl, fun _ => rfl, fun _ => rfl⟩

theorem isPrimitive_write (b : Byte) : IsPrimitive (.write b) .write true (primWrite b) where
  exec_eq _ := rfl
  body_clockOff _ h := clocked_off h
  body_frame _ _ h := by
    obtain ⟨-, -, -, rfl⟩ := primWrite_ok h
    exact ⟨rfl, fun hw => absurd rfl (hw b), fun _ => rfl⟩

/-- `read` as the host issues it: the Byte goes to `RESULT` (40 R128). -/
def hostRead (s : State) : Except FaultRec State :=
  (primRead s).map fun r => { r.2 with result := zext16 r.1 }

theorem isPrimitive_read : IsPrimitive .read .read true hostRead where
  exec_eq _ := rfl
  body_clockOff _ h := congrArg (Except.map _) (clocked_off h)
  body_frame _ _ h := by
    obtain ⟨⟨b, u⟩, hu, rfl⟩ := map_eq_ok_iff.mp h
    obtain ⟨n, rfl⟩ := primRead_ok hu
    exact ⟨rfl, fun _ => rfl, fun hr => absurd rfl hr⟩

/-- A status query writes `RESULT` alone (40 R124 to R126). -/
theorem isPrimitive_query (h : ∀ s, exec i s = .next (issuePrimitive op false (primQuery op flag) s)) :
    IsPrimitive i op false (primQuery op flag) where
  exec_eq := h
  body_clockOff _ h := clocked_off h
  body_frame _ _ h := by
    obtain rfl := primQuery_ok h
    exact ⟨rfl, fun _ => rfl, fun _ => rfl⟩

theorem isPrimitive_transmitReady :
    IsPrimitive .transmitReady .transmitReady false (primQuery .transmitReady State.txe) :=
  isPrimitive_query fun _ => rfl

theorem isPrimitive_receiveReady :
    IsPrimitive .receiveReady .receiveReady false (primQuery .receiveReady State.rxne) :=
  isPrimitive_query fun _ => rfl

theorem isPrimitive_busy : IsPrimitive .busy .busy false (primQuery .busy State.bsy) :=
  isPrimitive_query fun _ => rfl

/-! ### What any primitive does -/

theorem IsPrimitive.exec_faulted (P : IsPrimitive i op owned body) (h : s.fault ≠ none) : exec i s = .next s := by
  rw [P.exec_eq, issuePrimitive_faulted h]

theorem IsPrimitive.exec_reentry (P : IsPrimitive i op owned body) {r : Op} (hf : s.fault = none)
    (hm : s.mop = some r) : exec i s = .next (raise (.reentry op r) s) := by
  rw [P.exec_eq, issuePrimitive_reentry hf hm]

theorem IsPrimitive.exec_ownership (P : IsPrimitive i op owned body) (hf : s.fault = none) (hm : s.mop = none)
    (ho : owned = true) (hi : s.initDone = true) : exec i s = .next (raise (.ownershipViolation op) s) := by
  rw [P.exec_eq, issuePrimitive_ownership hf hm ho hi]

theorem IsPrimitive.exec_clockOff (P : IsPrimitive i op owned body) (hf : s.fault = none) (hm : s.mop = none)
    (ho : owned = true → s.initDone = false) (hc : s.spiClk = false) :
    exec i s = .next (raise (.clockOff op) s) := by
  rw [P.exec_eq, issuePrimitive_runs hf hm ho, P.body_clockOff s hc, settle_error]

/-- Where the host may issue it and its clock is on, a primitive is its body. -/
theorem IsPrimitive.exec_ready (P : IsPrimitive i op owned body) (h : PrimitiveReady s)
    (ho : owned = true → s.initDone = false) : exec i s = .next (settle s (body s)) := by
  obtain ⟨hf, hm, -⟩ := h
  rw [P.exec_eq, issuePrimitive_runs hf hm ho]

/-- Whatever comes of its checks, a primitive keeps its frame. -/
theorem IsPrimitive.exec_frame (P : IsPrimitive i op owned body) (h : exec i s = .next t) :
    PrimitiveFrame i s t := by
  rw [P.exec_eq] at h
  cases h
  obtain hs | ⟨f, hs⟩ | ⟨-, -, -, t, ht, hs⟩ := issuePrimitive_cases op owned body s <;> rw [hs]
  · exact .refl
  · exact .raise
  · exact P.body_frame s t ht

/-- Settles O25: each of the eight is a primitive, and so keeps the frame all primitives keep. -/
theorem primitivesLeaveTheSequencerAlone : Obligations.PrimitivesLeaveTheSequencerAlone := by
  intro s t i hi he
  have hframe : PrimitiveFrame i s t := by
    simp only [List.mem_cons, List.not_mem_nil, or_false] at hi
    obtain (rfl | rfl | rfl | rfl | rfl | rfl) | ⟨c, rfl⟩ | ⟨b, rfl⟩ := hi
    · exact isPrimitive_enable.exec_frame he
    · exact isPrimitive_disable.exec_frame he
    · exact isPrimitive_transmitReady.exec_frame he
    · exact isPrimitive_receiveReady.exec_frame he
    · exact isPrimitive_busy.exec_frame he
    · exact isPrimitive_read.exec_frame he
    · exact (isPrimitive_configure c).exec_frame he
    · exact (isPrimitive_write b).exec_frame he
  obtain ⟨hothers, htx, hrx⟩ := hframe
  obtain ⟨u, rfl⟩ : ∃ u, t = withSpimOf u s := ⟨t, hothers⟩
  exact ⟨rfl, rfl, rfl, rfl, rfl, rfl, rfl, rfl, rfl, rfl, rfl, rfl, rfl, rfl, rfl, rfl, rfl, rfl, htx, hrx⟩

/-- Settles O24: the checks of an issue come in their order, and the clock's is the first of every body. -/
theorem primitiveChecksInOrder : Obligations.PrimitiveChecksInOrder := by
  intro s i op owned hi hf
  obtain ⟨body, P⟩ : ∃ body, IsPrimitive i op owned body := by
    simp only [List.mem_cons, List.not_mem_nil, or_false, Prod.mk.injEq] at hi
    obtain (⟨rfl, rfl, rfl⟩ | ⟨rfl, rfl, rfl⟩ | ⟨rfl, rfl, rfl⟩ | ⟨rfl, rfl, rfl⟩ | ⟨rfl, rfl, rfl⟩ |
      ⟨rfl, rfl, rfl⟩) | ⟨c, rfl, rfl, rfl⟩ | ⟨b, rfl, rfl, rfl⟩ := hi
    · exact ⟨_, isPrimitive_enable⟩
    · exact ⟨_, isPrimitive_disable⟩
    · exact ⟨_, isPrimitive_read⟩
    · exact ⟨_, isPrimitive_transmitReady⟩
    · exact ⟨_, isPrimitive_receiveReady⟩
    · exact ⟨_, isPrimitive_busy⟩
    · exact ⟨_, isPrimitive_configure c⟩
    · exact ⟨_, isPrimitive_write b⟩
  exact ⟨fun _ hm => P.exec_reentry hf hm, fun hm => P.exec_ownership hf hm, fun hm => P.exec_clockOff hf hm⟩

/-! ### `configure`, `enable`, `disable` (40 R121 to R123) -/

/-- Settles O15: past the common checks only `EN` decides. -/
theorem configureStoresTheConfiguration : Obligations.ConfigureStoresTheConfiguration := by
  intro s c hr hi
  rw [(isPrimitive_configure c).exec_ready hr fun _ => hi, primConfigure, clocked_ready hr]
  constructor <;> intro he
  · have hoff : ¬s.en = true := by simp [he]
    rw [if_neg hoff, settle_ok]
  · rw [if_pos he]
    rfl

/-- Settles O16: past the common checks only `CFG_VALID` decides. -/
theorem enableSetsTheEnableBit : Obligations.EnableSetsTheEnableBit := by
  intro s hr hi
  rw [isPrimitive_enable.exec_ready hr fun _ => hi, primEnable, clocked_ready hr]
  constructor <;> intro hv
  · rw [if_pos hv, settle_ok]
  · have hnone : ¬s.cfgValid = true := by simp [hv]
    rw [if_neg hnone]
    rfl

theorem inFlight_iff : s.inFlight = true ↔ s.txBuf ≠ none ∨ s.shiftAct = true ∨ s.bsy = true := by
  simp [State.inFlight, State.txe, or_assoc, Option.isSome_iff_ne_none]

/-- Settles O17: past the common checks only a transfer in flight stops `disable`. -/
theorem disableClearsTheEnableBit : Obligations.DisableClearsTheEnableBit := by
  intro s hr hi
  rw [isPrimitive_disable.exec_ready hr fun _ => hi, primDisable, clocked_ready hr]
  refine ⟨fun htx hact hbsy => ?_, fun h => ?_⟩
  · have hrest : ¬s.inFlight = true := by simp [inFlight_iff, htx, hact, hbsy]
    rw [if_neg hrest, settle_ok]
  · rw [if_pos (inFlight_iff.mpr h)]
    rfl

/-! ### The status queries (40 R124 to R126) -/

/-- A status query returns its flag (30 R102); the checks that apply to it each change `FAULT` alone. -/
theorem IsPrimitive.exec_query (P : IsPrimitive i op false (primQuery op flag)) (s : State) :
    (PrimitiveReady s → exec i s = .next { s with result := boolResult (flag s) }) ∧
    (s.fault ≠ none → exec i s = .next s) ∧
    (∀ r, s.fault = none → s.mop = some r → exec i s = .next (raise (.reentry op r) s)) ∧
    (s.fault = none → s.mop = none → s.spiClk = false → exec i s = .next (raise (.clockOff op) s)) := by
  refine ⟨fun hr => ?_, P.exec_faulted, fun _ => P.exec_reentry, fun hf hm => P.exec_clockOff hf hm nofun⟩
  rw [P.exec_ready hr nofun, primQuery, clocked_ready hr, settle_ok]

theorem boolResult_txe (s : State) : boolResult s.txe = if s.txBuf = none then 0x0001 else 0x0000 := by
  cases h : s.txBuf <;> simp [State.txe, boolResult, h]

theorem boolResult_rxne (s : State) : boolResult s.rxne = if s.rxBuf = none then 0x0000 else 0x0001 := by
  cases h : s.rxBuf <;> simp [State.rxne, boolResult, h]

/-- Settles O18: `transmitReady` is the query of `TXE`. -/
theorem transmitReadyReturnsTheFlag : Obligations.TransmitReadyReturnsTheFlag := by
  refine ⟨by decide, fun s => ?_⟩
  rw [← boolResult_txe]
  exact isPrimitive_transmitReady.exec_query s

/-- Settles O19: `receiveReady` is the query of `RXNE`. -/
theorem receiveReadyReturnsTheFlag : Obligations.ReceiveReadyReturnsTheFlag := by
  refine ⟨by decide, fun s => ?_⟩
  rw [← boolResult_rxne]
  exact isPrimitive_receiveReady.exec_query s

/-- Settles O20: `busy` is the query of `BSY`. -/
theorem busyReturnsTheFlag : Obligations.BusyReturnsTheFlag :=
  ⟨by decide, isPrimitive_busy.exec_query⟩

/-! ### `write` (40 R127, R133) -/

theorem admittedCfg_iff {c : Cfg} :
    admittedCfg c = true ↔ c.mode = .master ∧ c.frameWidth = 8 ∧ c.slaveSelect = .softwareHigh := by
  simp [admittedCfg, and_assoc]

/-- Settles O21: each check of `write` passes. -/
theorem writeFillsTheTransmitBuffer : Obligations.WriteFillsTheTransmitBuffer := by
  intro s b hr hi he hmode hwidth hss htx
  have hcfg : admittedCfg s.cfg = true := admittedCfg_iff.mpr ⟨hmode, hwidth, hss⟩
  rw [(isPrimitive_write b).exec_ready hr fun _ => hi, primWrite, clocked_ready hr]
  simp [he, hcfg, htx, emit]

/-- Settles O22: the three checks of `write` in the order of its body, the ones before each passed. -/
theorem writeChecksInOrder : Obligations.WriteChecksInOrder := by
  intro s b hr hi
  rw [(isPrimitive_write b).exec_ready hr fun _ => hi, primWrite, clocked_ready hr]
  refine ⟨fun he => ?_, fun he hbad => ?_, fun he hmode hwidth hss p htx => ?_⟩
  · simp [he, raise]
  · have hcfg : admittedCfg s.cfg = false := by
      rw [Bool.eq_false_iff, ne_eq, admittedCfg_iff]
      tauto
    simp [he, hcfg, raise]
  · have hcfg : admittedCfg s.cfg = true := admittedCfg_iff.mpr ⟨hmode, hwidth, hss⟩
    simp [he, hcfg, htx, raise]

/-! ### `read` (40 R128) -/

/-- Settles O23: `read` has no check of its own; `RXBUF` decides which Byte it returns. -/
theorem readReturnsTheReceivedByte : Obligations.ReadReturnsTheReceivedByte := by
  intro s hr hi
  rw [isPrimitive_read.exec_ready hr fun _ => hi, hostRead, primRead, clocked_ready hr]
  constructor
  · intro b hrx
    rw [hrx]
    rfl
  · intro hrx
    rw [hrx]
    rfl

end Sys2Proof.Proofs
end

section
/-! PROOFS. The three steps of the shifter (40 R129 to R132): when each is enabled, and what it does there. -/

namespace Sys2Proof.Proofs

open Sys2Proof.Machine Sys2Proof.Laws

variable {s t : State} {b m : Byte} {f : FaultRec}

/-! ### When a step is enabled -/

theorem loadEnabled_iff :
    loadEnabled s = true ↔ s.fault = none ∧ s.en = true ∧ s.txBuf ≠ none ∧ s.shiftAct = false := by
  simp [loadEnabled, State.txe, and_assoc, Option.isSome_iff_ne_none]

theorem xferEnabled_iff : xferEnabled s = true ↔ s.fault = none ∧ s.shiftAct = true := by
  simp [xferEnabled]

theorem drainEnabled_iff :
    drainEnabled s = true ↔ s.fault = none ∧ s.bsy = true ∧ s.shiftAct = false ∧ s.txBuf = none := by
  simp [drainEnabled, State.txe, and_assoc]

/-! ### S-LOAD (40 R129) -/

theorem loadStep_of_txBuf (h : s.txBuf = some b) : loadStep s =
    { s with shift := b, shiftAct := true, txBuf := none, bsy := true, wireCfg := currentWire s } := by
  simp only [loadStep, h]

/-- Settles O26: the step where it is enabled, and nothing where one of the four conditions fails. -/
theorem loadMovesTheByteToTheShifter : Obligations.LoadMovesTheByteToTheShifter := by
  intro s
  refine ⟨fun b hf he htx hact => ?_, fun h => agentStep_held ?_⟩
  · have hon : loadEnabled s = true := loadEnabled_iff.mpr ⟨hf, he, by simp [htx], hact⟩
    exact (agentStep_load hon).trans (loadStep_of_txBuf htx)
  · rw [agentEnabled, Bool.eq_false_iff, ne_eq, loadEnabled_iff]
    obtain h | h | h | h := h <;> simp [h]

/-! ### S-XFER (40 R130, R132) -/

/-- The exchange itself leaves `RXBUF`. -/
theorem linkExchange_rxBuf (h : linkExchange b s = .ok (m, t)) : t.rxBuf = s.rxBuf := by
  obtain ⟨sl, rfl, -⟩ := linkExchange_ok h
  rfl

theorem xferStep_refused (h : linkExchange s.shift s = .error f) : xferStep s = raise f s := by
  simp only [xferStep, h]

theorem xferStep_received (h : linkExchange s.shift s = .ok (m, t)) (hrx : s.rxBuf = none) :
    xferStep s = { t with rxBuf := some m, shiftAct := false } := by
  simp only [xferStep, h, linkExchange_rxBuf h, hrx]

theorem xferStep_overrun {u : Byte} (h : linkExchange s.shift s = .ok (m, t)) (hrx : s.rxBuf = some u) :
    xferStep s = raise (.rxOverrun u m) t := by
  simp only [xferStep, h, linkExchange_rxBuf h, hrx]

/-- Settles O27: where S-XFER is enabled, the answer of the link and then `RXBUF` decide. -/
theorem transferExchangesOneFrame : Obligations.TransferExchangesOneFrame := by
  intro s
  refine ⟨fun hf hact => ?_, fun h => agentStep_held ?_⟩
  · rw [agentStep_xfer (xferEnabled_iff.mpr ⟨hf, hact⟩)]
    exact ⟨fun _ => xferStep_refused, fun _ _ => xferStep_received, fun _ _ _ => xferStep_overrun⟩
  · rw [agentEnabled, Bool.eq_false_iff, ne_eq, xferEnabled_iff]
    obtain h | h := h <;> simp [h]

/-! ### S-DRAIN (40 R131) -/

/-- Settles O29: the step where it is enabled, and nothing where one of the four conditions fails. -/
theorem drainClearsBusy : Obligations.DrainClearsBusy := by
  intro s
  refine ⟨fun hf hbsy hact htx => ?_, fun h => agentStep_held ?_⟩
  · exact agentStep_drain (drainEnabled_iff.mpr ⟨hf, hbsy, hact, htx⟩)
  · rw [agentEnabled, Bool.eq_false_iff, ne_eq, drainEnabled_iff]
    obtain h | h | h | h := h <;> simp [h]

end Sys2Proof.Proofs
end

section
/-! PROOFS. The transitions of a transaction (41 R161 to R167): what each leaves where it is enabled and raises no
fault. -/

namespace Sys2Proof.Proofs

open Sys2Proof.Machine Sys2Proof.Laws

variable {s : State} {op : Op} {d : Bool} {a : Addr7} {v b : Byte}

/-! ### The chip-select drives (41 R161, 20 R76) -/

theorem csAssert_driven (h : s.csDrv = true) : csAssert s = .ok
    { s with
      csN := false
      trace := s.trace ++ [.collab (.resetPin .csPin), .csLow]
      slave := if s.csN = true then { s.slave with phase := .awaitAddr } else s.slave } := by
  simp [csAssert, h, emit, collabCall, slaveSelect]

theorem csDeassert_driven (h : s.csDrv = true) : csDeassert s = .ok
    { s with
      csN := true
      trace := s.trace ++ [.collab (.setPin .csPin), .csHigh]
      slave := if s.csN = true then s.slave else { s.slave with phase := .desel } } := by
  simp [csDeassert, h, emit, collabCall, slaveDeselect]

/-- Settles O30: each drive is its equation where the pin is an output, and else the fault. -/
theorem chipSelectDrives : Obligations.ChipSelectDrives := by
  intro s
  refine ⟨fun h => ⟨csAssert_driven h, csDeassert_driven h⟩, fun h => ?_⟩
  simp [csAssert, csDeassert, h]

/-! ### The primitives a transition invokes (40 R127, R128) -/

/-- After `initialise` a `write` to an empty `TXBUF` raises no fault (41 R175). -/
theorem primWrite_initialised (h : Initialised s) (htx : s.txBuf = none) :
    primWrite b s = .ok (emit (.tx b) { s with txBuf := some b }) := by
  obtain ⟨hcfg, -, hen, hclk, -⟩ := h
  have hadm : admittedCfg initCfg = true := by decide
  simp [primWrite, clocked, hclk, hen, hcfg, hadm, htx]

theorem primRead_received (hclk : s.spiClk = true) (hrx : s.rxBuf = some b) :
    primRead s = .ok (b, emit (.rx b) { s with rxBuf := none }) := by
  simp [primRead, clocked, hclk, hrx]

/-! ### The sequencer's step at each phase (41 R162 to R167) -/

/-- T1 begins the operation's next transaction. -/
theorem agentStep_t1 (hf : s.fault = none) (hm : s.mop = some op) (hop : op ≠ .initialise) (hp : s.phase = .idle)
    (hn : nextTransaction op s = some (d, a, v)) (hdrv : s.csDrv = true) :
    agentStep .sequencer s =
      { s with
        dir := d, addr := a, wdata := if d = true then s.wdata else v, csN := false, phase := .p2
        trace := s.trace ++ [.collab (.resetPin .csPin), .csLow]
        slave := if s.csN = true then { s.slave with phase := .awaitAddr } else s.slave } := by
  have hidle : sequencerStep s = settle s (t1 d a v s) := by
    cases op <;> simp_all [sequencerStep, idleStep]
  rw [agentStep_sequencer (by simp [sequencerEnabled, hf, hm, hp]), hidle, t1, csAssert_driven (by exact hdrv)]
  rfl

theorem agentStep_t2 (hf : s.fault = none) (hm : s.mop = some op) (hp : s.phase = .p2) (hi : Initialised s)
    (htx : s.txBuf = none) :
    agentStep .sequencer s =
      { s with
        txBuf := some (addressByte s.dir s.addr), phase := .p3
        trace := s.trace ++ [.tx (addressByte s.dir s.addr)] } := by
  rw [agentStep_sequencer (by simp [sequencerEnabled, hf, hm, hp, State.txe, htx])]
  simp only [sequencerStep, hm, hp, t2, primWrite_initialised hi htx]
  rfl

theorem agentStep_t3 (hf : s.fault = none) (hm : s.mop = some op) (hp : s.phase = .p3) (hclk : s.spiClk = true)
    (hrx : s.rxBuf = some b) :
    agentStep .sequencer s = { s with rxBuf := none, phase := .p4, trace := s.trace ++ [.rx b] } := by
  rw [agentStep_sequencer (by simp [sequencerEnabled, hf, hm, hp, State.rxne, hrx])]
  simp only [sequencerStep, hm, hp, t3, primRead_received hclk hrx]
  rfl

theorem agentStep_t4 (hf : s.fault = none) (hm : s.mop = some op) (hp : s.phase = .p4) (hi : Initialised s)
    (htx : s.txBuf = none) :
    agentStep .sequencer s =
      { s with
        txBuf := some (secondFrame s.dir s.wdata), phase := .p5
        trace := s.trace ++ [.tx (secondFrame s.dir s.wdata)] } := by
  rw [agentStep_sequencer (by simp [sequencerEnabled, hf, hm, hp, State.txe, htx])]
  simp only [sequencerStep, hm, hp, t4, primWrite_initialised hi htx]
  rfl

theorem agentStep_t5 (hf : s.fault = none) (hm : s.mop = some op) (hp : s.phase = .p5) (hclk : s.spiClk = true)
    (hrx : s.rxBuf = some b) :
    agentStep .sequencer s =
      { s with rxBuf := none, capt := b, phase := .p6, trace := s.trace ++ [.rx b] } := by
  rw [agentStep_sequencer (by simp [sequencerEnabled, hf, hm, hp, State.rxne, hrx])]
  simp only [sequencerStep, hm, hp, t5, primRead_received hclk hrx]
  rfl

theorem agentStep_t6 (hf : s.fault = none) (hm : s.mop = some op) (hp : s.phase = .p6) (hdrv : s.csDrv = true) :
    agentStep .sequencer s =
      { s with
        csN := true, phase := .idle, mstage := s.mstage + 1
        mtmp := if keepsFirstByte op = true ∧ s.mstage = 0 then s.capt else s.mtmp
        trace := s.trace ++ [.collab (.setPin .csPin), .csHigh]
        slave := if s.csN = true then s.slave else { s.slave with phase := .desel } } := by
  rw [agentStep_sequencer (by simp [sequencerEnabled, hf, hm, hp])]
  simp [sequencerStep, hm, hp, t6, csDeassert_driven hdrv, Except.map]

/-! ### The holds (00 R8) -/

/-- T2 and T4 are held while `TXE = 0`. -/
theorem agentStep_held_txBuf (hp : s.phase = .p2 ∨ s.phase = .p4) (htx : s.txBuf ≠ none) :
    agentStep .sequencer s = s := by
  refine agentStep_held ?_
  have hfull : s.txe = false := by simpa [State.txe, Option.isSome_iff_ne_none] using htx
  obtain hp | hp := hp <;> simp [agentEnabled, sequencerEnabled, hp, hfull]

/-- T3 and T5 are held while `RXNE = 0`. -/
theorem agentStep_held_rxBuf (hp : s.phase = .p3 ∨ s.phase = .p5) (hrx : s.rxBuf = none) :
    agentStep .sequencer s = s := by
  refine agentStep_held ?_
  obtain hp | hp := hp <;> simp [agentEnabled, sequencerEnabled, hp, State.rxne, hrx]

/-! ### The statements -/

/-- Settles O31: T1 and T6 are the two chip-select drives. -/
theorem transactionBeginsAndEnds : Obligations.TransactionBeginsAndEnds :=
  fun _ _ hf hm hop hdrv =>
    ⟨fun _ _ _ hp hn => agentStep_t1 hf hm hop hp hn hdrv, fun hp => agentStep_t6 hf hm hp hdrv⟩

/-- Settles O32: T2 is a `write` of the address byte, or held. -/
theorem addressByteIsWrittenAtPhase2 : Obligations.AddressByteIsWrittenAtPhase2 :=
  fun _ _ hf hm hp hi => ⟨agentStep_held_txBuf (.inl hp), agentStep_t2 hf hm hp hi⟩

/-- Settles O33: T3 is a `read`, or held. -/
theorem garbageByteIsDiscardedAtPhase3 : Obligations.GarbageByteIsDiscardedAtPhase3 :=
  fun _ _ hf hm hp hclk => ⟨agentStep_held_rxBuf (.inl hp), fun _ => agentStep_t3 hf hm hp hclk⟩

/-- Settles O34: T4 is a `write` of the second frame, or held. -/
theorem secondFrameIsWrittenAtPhase4 : Obligations.SecondFrameIsWrittenAtPhase4 :=
  fun _ _ hf hm hp hi => ⟨agentStep_held_txBuf (.inr hp), agentStep_t4 hf hm hp hi⟩

/-- Settles O35: T5 is a `read`, or held. -/
theorem receivedByteIsCapturedAtPhase5 : Obligations.ReceivedByteIsCapturedAtPhase5 :=
  fun _ _ hf hm hp hclk => ⟨agentStep_held_rxBuf (.inr hp), fun _ => agentStep_t5 hf hm hp hclk⟩

end Sys2Proof.Proofs
end

section
/-! PROOFS. The protocol invariant (41 R175, 10 R44 to R46): every part of a step but the reset keeps `Protocol`, and an
agent's step raises no fault from it. -/

namespace Sys2Proof.Proofs

open Sys2Proof.Machine Sys2Proof.Laws

variable {s : State} {sl : Slave} {d : Bool} {a : Addr7} {b : Byte} {n : Nat}

/-! ### The frame under way (20 R76, R77) -/

/-- The slave takes the address frame of a transaction and then awaits its data. -/
theorem slaveFrame_addressByte (h : sl.phase = .awaitAddr) :
    ∃ sl' m, slaveFrame sl requiredWire (addressByte d a) n = .ok (sl', m) ∧ sl'.phase = .awaitData d a :=
  ⟨_, _, slaveFrame_awaitAddr h, congrArg₂ _ (directionOf_addressByte d a) (addressOf_addressByte d a)⟩

/-- The slave takes the second frame of a transaction and then awaits no more. -/
theorem slaveFrame_dataFrame (h : sl.phase = .awaitData d a) :
    ∃ sl' m, slaveFrame sl requiredWire b n = .ok (sl', m) ∧ sl'.phase = .done := by
  cases d with
  | true => exact ⟨_, _, slaveFrame_awaitData_read h, rfl⟩
  | false => exact ⟨_, _, slaveFrame_awaitData_write h, rfl⟩

/-- Either no frame is under way, or one is, within a transaction, which the slave takes and which may move on under the
same `PHASE`, direction, address and data. -/
theorem framesAt_cases (h : FramesAt s) : (∃ p, NoFrame p s) ∨ ∃ b before after,
    s.phase ≠ .idle ∧ OneFrame b before after s ∧
      (∀ sl n, sl.phase = before → ∃ sl' m, slaveFrame sl requiredWire b n = .ok (sl', m) ∧ sl'.phase = after) ∧
      ∀ t : State, t.phase = s.phase → t.dir = s.dir → t.addr = s.addr → t.wdata = s.wdata →
        OneFrame b before after t → FramesAt t := by
  unfold FramesAt at h
  cases hp : s.phase <;> simp only [hp] at h
  case p3 =>
    refine .inr ⟨_, _, _, nofun, h, fun _ _ => slaveFrame_addressByte, fun t hph hd ha _ ht => ?_⟩
    simpa only [FramesAt, hph, hd, ha] using ht
  case p5 =>
    refine .inr ⟨_, _, _, nofun, h, fun _ _ => slaveFrame_dataFrame, fun t hph hd ha hw ht => ?_⟩
    simpa only [FramesAt, hph, hd, ha, hw] using ht
  all_goals exact .inl ⟨_, h⟩

/-- A frame that has been received is no longer in `TXBUF` or in `SHIFT`. -/
theorem oneFrame_received {before after : SlavePhase} {m : Byte} (h : OneFrame b before after s)
    (hrx : s.rxBuf = some m) : s.txBuf = none ∧ s.shiftAct = false ∧ s.slave.phase = after := by
  obtain ⟨-, -, hnone, -⟩ | ⟨-, -, -, -, hnone, -⟩ | ⟨htx, hact, -, hsl⟩ := h
  · exact absurd (hrx.symm.trans hnone) nofun
  · exact absurd (hrx.symm.trans hnone) nofun
  · exact ⟨htx, hact, hsl⟩

/-! ### An agent's step -/

/-- From `s` to `t` the protocol invariant comes to hold, no fault is recorded, and chip-select stays high at rest where
it was (10 R45). -/
structure ProtocolStep (s t : State) : Prop where
  protocol : Protocol t
  fault : t.fault = s.fault
  rest : (s.phase = .idle → s.csN = true) → t.phase = .idle → t.csN = true

theorem protocolStep_loadStep (h : Protocol s) (he : loadEnabled s = true) : ProtocolStep s (loadStep s) := by
  obtain ⟨hdone, hinit, hmop, hrest, hcs, hframes⟩ := h
  obtain ⟨b, htx, hl⟩ := loadStep_eq he
  rw [hl]
  refine ⟨⟨hdone, hinit, hmop, hrest, hcs, ?_⟩, rfl, id⟩
  obtain ⟨p, hnone, -⟩ | ⟨b', before, after, -, hone, -, hmove⟩ := framesAt_cases hframes
  · exact absurd (htx.symm.trans hnone) nofun
  · obtain ⟨htx', -, hrx, hsl⟩ | ⟨hnone, -⟩ | ⟨hnone, -⟩ := hone
    · obtain rfl : b = b' := Option.some.inj (htx.symm.trans htx')
      exact hmove _ rfl rfl rfl rfl (.inr (.inl ⟨rfl, rfl, rfl, currentWire_initCfg hinit.1, hrx, hsl⟩))
    · exact absurd (htx.symm.trans hnone) nofun
    · exact absurd (htx.symm.trans hnone) nofun

/-- The slave takes the frame, and `RXBUF` is empty to receive the answer. -/
theorem protocolStep_xferStep (h : Protocol s) (he : xferEnabled s = true) : ProtocolStep s (xferStep s) := by
  obtain ⟨-, hact⟩ := xferEnabled_iff.mp he
  obtain ⟨hdone, hinit, hmop, hrest, hcs, hframes⟩ := h
  obtain ⟨-, -, -, -, -, -, hdrv⟩ := id hinit
  obtain ⟨p, -, hidle, -⟩ | ⟨b, before, after, hp, hone, htake, hmove⟩ := framesAt_cases hframes
  · exact absurd (hact.symm.trans hidle) nofun
  · obtain ⟨-, hidle, -⟩ | ⟨htx, -, hshift, hwire, hrx, hsl⟩ | ⟨-, hidle, -⟩ := hone
    · exact absurd (hact.symm.trans hidle) nofun
    · obtain ⟨sl, m, hframe, hafter⟩ := htake s.slave s.draws hsl
      rw [xferStep_received (linkExchange_selected_ok (selected_eq_true hdrv (hcs hp)) (hwire ▸ hshift ▸ hframe)) hrx]
      exact ⟨⟨hdone, hinit, hmop, hrest, hcs, hmove _ rfl rfl rfl rfl (.inr (.inr ⟨htx, rfl, rfl, hafter⟩))⟩, rfl, id⟩
    · exact absurd (hact.symm.trans hidle) nofun

/-- Between two phases of a transaction the frames alone are to be looked at: chip-select is low and the operation stays
in progress. -/
theorem protocolStep_within {p : Phase} {tx rx : Option Byte} {c : Byte} {events : List Event} (h : Protocol s)
    (hs : s.phase ≠ .idle) (hp : p ≠ .idle)
    (hframes : FramesAt { s with txBuf := tx, rxBuf := rx, capt := c, phase := p, trace := events }) :
    ProtocolStep s { s with txBuf := tx, rxBuf := rx, capt := c, phase := p, trace := events } := by
  obtain ⟨hdone, hinit, hmop, hrest, hcs, -⟩ := h
  exact ⟨⟨hdone, hinit, hmop, fun h0 => absurd (hrest h0) hs, fun _ => hcs hs, hframes⟩, rfl,
    fun _ h0 => absurd h0 hp⟩

/-- The transitions are enabled only where their frame is, and there raise no fault. -/
theorem protocolStep_sequencer (h : Protocol s) (he : sequencerEnabled s = true) :
    ProtocolStep s (agentStep .sequencer s) := by
  have hf : s.fault = none := by simp_all [sequencerEnabled]
  obtain ⟨hdone, hinit, hmop, hrest, hcs, hframes⟩ := id h
  obtain ⟨-, -, -, hclk, -, -, hdrv⟩ := id hinit
  unfold FramesAt at hframes
  obtain ⟨op, hm, ⟨-, rfl, -⟩ | ⟨hp, hop, d, a, v, hn, -⟩ | ⟨hp, -, hs⟩ | ⟨hp, htx, -⟩ | ⟨hp, hrx, -⟩ |
    ⟨hp, htx, -⟩ | ⟨hp, hrx, -⟩ | ⟨hp, -⟩⟩ := sequencerStep_cases he
  case inl => exact absurd hm hmop
  all_goals simp only [hp] at hframes
  · obtain ⟨htx, hact, hrx, hsl⟩ := hframes
    have hsome : s.mop ≠ none := by simp [hm]
    rw [agentStep_t1 hf hm hop hp hn hdrv]
    refine ⟨⟨hdone, hinit, hmop, fun h0 => absurd h0 hsome, fun _ => rfl, htx, hact, hrx, ?_⟩, rfl, nofun⟩
    cases hc : s.csN <;> simp_all
  · rw [agentStep_sequencer he, hs]
    refine ⟨⟨hdone, hinit, nofun, fun _ => hp, hcs, ?_⟩, rfl, id⟩
    simpa only [FramesAt, returnStep, hp] using hframes
  · obtain ⟨-, hact, hrx, hsl⟩ := hframes
    rw [agentStep_t2 hf hm hp hinit htx]
    exact protocolStep_within h (by simp [hp]) nofun (.inl ⟨rfl, hact, hrx, hsl⟩)
  · obtain ⟨b, hb⟩ := Option.isSome_iff_exists.mp hrx
    obtain ⟨htx, hact, hsl⟩ := oneFrame_received hframes hb
    rw [agentStep_t3 hf hm hp hclk hb]
    exact protocolStep_within h (by simp [hp]) nofun ⟨htx, hact, rfl, hsl⟩
  · obtain ⟨-, hact, hrx, hsl⟩ := hframes
    rw [agentStep_t4 hf hm hp hinit htx]
    exact protocolStep_within h (by simp [hp]) nofun (.inl ⟨rfl, hact, hrx, hsl⟩)
  · obtain ⟨b, hb⟩ := Option.isSome_iff_exists.mp hrx
    obtain ⟨htx, hact, hsl⟩ := oneFrame_received hframes hb
    rw [agentStep_t5 hf hm hp hclk hb]
    exact protocolStep_within h (by simp [hp]) nofun ⟨htx, hact, rfl, hsl⟩
  · obtain ⟨htx, hact, hrx, -⟩ := hframes
    have hlow : s.csN = false := hcs (by simp [hp])
    rw [agentStep_t6 hf hm hp hdrv]
    refine ⟨⟨hdone, hinit, hmop, fun _ => rfl, fun h0 => absurd rfl h0, htx, hact, hrx, ?_⟩, rfl, fun _ _ => rfl⟩
    simp [hlow]

theorem protocolStep_agentStep (t : Turn) (h : Protocol s) : ProtocolStep s (agentStep t s) := by
  obtain hs | ⟨rfl, he, -⟩ | ⟨-, he, hs⟩ | ⟨-, he, hs⟩ | ⟨-, -, hs⟩ := agentStep_cases t s
  · rw [hs]
    exact ⟨h, rfl, id⟩
  · exact protocolStep_sequencer h he
  · rw [hs]
    exact protocolStep_loadStep h he
  · rw [hs]
    exact protocolStep_xferStep h he
  · rw [hs]
    exact ⟨h, rfl, id⟩

/-! ### A step of the machine -/

/-- What every step since `s₀` keeps: the invariant, with `FAULT` as it was or one of the codes an issue can record
after `initialise` (60 R252), and chip-select high at rest where it was. -/
structure ProtocolSince (s₀ s : State) : Prop where
  protocol : Protocol s
  fault : s.fault = s₀.fault ∨ ∃ f, s.fault = some f ∧ faultCode f ∈ [1, 2, 14, 16, 17]
  rest : (s₀.phase = .idle → s₀.csN = true) → s.phase = .idle → s.csN = true

variable {s₀ : State}

theorem ProtocolSince.agentStep (h : ProtocolSince s₀ s) (t : Turn) : ProtocolSince s₀ (agentStep t s) := by
  obtain ⟨hp, hf, hr⟩ := h
  obtain ⟨hp', hf', hr'⟩ := protocolStep_agentStep t hp
  exact ⟨hp', hf' ▸ hf, fun h0 => hr' (hr h0)⟩

theorem ProtocolSince.raise {f : FaultRec} (h : ProtocolSince s₀ s) (hf : faultCode f ∈ [1, 2, 14, 16, 17]) :
    ProtocolSince s₀ (raise f s) :=
  ⟨h.protocol, .inr ⟨f, rfl, hf⟩, h.rest⟩

/-- `initialise` is done, so nothing that asks for the contrary is issued. -/
theorem ProtocolSince.initDone_ne_false (h : ProtocolSince s₀ s) : ¬s.initDone = false := by
  simp [h.protocol.1]

theorem ProtocolSince.query {op : Op} {flag : State → Bool} (h : ProtocolSince s₀ s) :
    ProtocolSince s₀ (settle s (primQuery op flag s)) := by
  obtain ⟨hp, hf, hr⟩ := h
  obtain ⟨-, ⟨-, -, -, hclk, -⟩, -⟩ := id hp
  have hq : primQuery op flag s = .ok { s with result := boolResult (flag s) } := by
    simp [primQuery, clocked, hclk]
  rw [hq]
  exact ⟨hp, hf, hr⟩

theorem ProtocolSince.start {op : Op} {host : Bool} {m v : Byte} (h : ProtocolSince s₀ s)
    (hop : op ≠ .initialise) :
    ProtocolSince s₀ (startOperation op host { s with maddr := a, mmask := m, mval := v }) := by
  obtain ⟨⟨hdone, hinit, -, hrest, hcs, hframes⟩, hf, hr⟩ := h
  exact ⟨⟨hdone, hinit, fun h0 => hop (Option.some.inj h0), nofun, hcs, hframes⟩, hf, hr⟩

theorem protocolSince_kept (s₀ : State) : Kept (ProtocolSince s₀) where
  agent t _ h := h.agentStep t
  sched _ _ h := ⟨h.protocol, h.fault, h.rest⟩
  program _ _ h := ⟨h.protocol, h.fault, h.rest⟩
  reentry _ _ _ h _ _ := h.raise (by simp [faultCode])
  ownership _ _ h _ _ := h.raise (by simp [faultCode])
  notInitialised _ _ h _ hi := absurd hi h.initDone_ne_false
  alreadyInitialised _ h _ _ := h.raise (by simp [faultCode])
  stray _ _ _ h _ := h.raise (by simp [faultCode])
  illegal _ _ h _ := h.raise (by simp [faultCode])
  configure _ _ h _ _ hi := absurd hi h.initDone_ne_false
  enable _ h _ _ hi := absurd hi h.initDone_ne_false
  disable _ h _ _ hi := absurd hi h.initDone_ne_false
  write _ _ h _ _ hi := absurd hi h.initDone_ne_false
  read _ h _ _ hi := absurd hi h.initDone_ne_false
  query _ _ _ h _ _ := h.query
  start _ _ _ _ _ _ h _ _ hop := h.start fun h0 => h.initDone_ne_false (hop h0)

/-- Settles O58: every part of a step keeps the invariant, and the only faults it records are those of an issue. -/
theorem stepKeepsTheProtocol : Obligations.StepKeepsTheProtocol := by
  intro s t h hreset hs
  have hkept := (protocolSince_kept s).step ⟨h, .inl rfl, id⟩
    (fun _ hts => absurd (by rw [hts]; rfl) hreset) hs
  exact ⟨hkept.protocol, hkept.fault, hkept.rest⟩

end Sys2Proof.Proofs
end

section
/-! PROOFS. The checks of the MTS operations (41 R160, 42 R202, 60 R257): each comes before the run and changes `FAULT`
alone. -/

namespace Sys2Proof.Proofs

open Sys2Proof.Machine Sys2Proof.Laws

variable {s : State} {op : Op} {i : Instr}

/-! ### The checks of an issue (41 R160) -/

theorem operationCheck_reentry {r : Op} (h : s.mop = some r) : operationCheck op s = some (.reentry op r) := by
  simp only [operationCheck, h]

theorem operationCheck_notInitialised (hm : s.mop = none) (hop : op ≠ .initialise) (hi : s.initDone = false) :
    operationCheck op s = some (.notInitialised op) := by
  cases op <;> simp_all [operationCheck]

theorem operationCheck_alreadyInitialised (hm : s.mop = none) (hi : s.initDone = true) :
    operationCheck .initialise s = some .alreadyInitialised := by
  simp [operationCheck, hm, hi]

/-- After `initialise` no check stops the other seven. -/
theorem operationCheck_passes (hm : s.mop = none) (hop : op ≠ .initialise) (hi : s.initDone = true) :
    operationCheck op s = none := by
  cases op <;> simp_all [operationCheck]

theorem issueOperation_checked {latch : State → State} {f : FaultRec} (hf : s.fault = none)
    (hc : operationCheck op s = some f) : issueOperation op latch s = raise f s := by
  simp [issueOperation, hf, hc]

/-! ### The eight operations -/

/-- Where a check of 41 R160 stops the operation `op`, the instruction `i` records that fault and nothing else. -/
def IsOperation (i : Instr) (op : Op) : Prop :=
  ∀ s f, s.fault = none → operationCheck op s = some f → exec i s = .next (raise f s)

theorem isOperation_of_exec {latch : State → State}
    (h : ∀ s, exec i s = .next (issueOperation op latch s)) : IsOperation i op := by
  intro s f hf hc
  rw [h, issueOperation_checked hf hc]

/-- The check on stray bits comes after the others (60 R257 (5)). -/
theorem isOperation_setFieldValue (a : Addr7) (m v : Byte) : IsOperation (.setFieldValue a m v) .setFieldValue := by
  intro s f hf hc
  simp only [exec, execSetFieldValue]
  rw [if_neg (by simp [strayCheck, hc]), issueOperation_checked hf hc]

/-- Settles O37: each operation has the checks of its issue, and a stray bit is looked for past them. -/
theorem operationChecksInOrder : Obligations.OperationChecksInOrder := by
  refine ⟨fun s i op hi hf => ?_, fun s a m v hf hm hi hpol hv => ?_⟩
  · have hop : IsOperation i op := by
      simp only [Prod.mk.injEq] at hi
      obtain ⟨rfl, rfl⟩ | ⟨rfl, rfl⟩ | ⟨a, rfl, rfl⟩ | ⟨a, v, rfl, rfl⟩ | ⟨a, m, rfl, rfl⟩ | ⟨a, m, v, rfl, rfl⟩ |
        ⟨a, m, rfl, rfl⟩ | ⟨ax, rfl, rfl⟩ := hi
      case inr.inr.inr.inr.inr.inl => exact isOperation_setFieldValue a m v
      all_goals exact isOperation_of_exec fun _ => rfl
    exact ⟨fun r hm => hop s _ hf (operationCheck_reentry hm),
      fun hm hne hi => hop s _ hf (operationCheck_notInitialised hm hne hi),
      fun hm he hi => hop s _ hf (he ▸ operationCheck_alreadyInitialised hm hi)⟩
  · have hbits : hasStrayBits m v = true := bne_iff_ne.mpr hv
    have hpass : operationCheck .setFieldValue s = none := operationCheck_passes hm nofun hi
    have hstray : strayCheck m v s = true := by simp [strayCheck, hf, hpass, hbits, hpol]
    simp only [exec, execSetFieldValue]
    rw [if_pos hstray]
    rfl

end Sys2Proof.Proofs
end

section
/-! PROOFS. Operations of one transaction (41 R168, R169, R171, R174): what their run ends in under every fair schedule,
and what that means for the registers of an `EchoSlave`. -/

namespace Sys2Proof.Proofs

open Sys2Proof.Machine Sys2Proof.Laws

variable {s : State} {op : Op} {d host : Bool} {a : Addr7} {v : Byte}

/-! ### The run -/

/-- The operation runs one transaction and keeps no Byte of it for another (30 R106). -/
structure OneTransaction (op : Op) : Prop where
  notInit : op ≠ .initialise
  ends : ∀ s : State, s.mstage = 1 → nextTransaction op s = none
  keepsNone : keepsFirstByte op = false

theorem oneTransaction_readRegister : OneTransaction .readRegister where
  notInit := nofun
  ends _ h := by simp [nextTransaction, h]
  keepsNone := rfl

theorem oneTransaction_writeRegister : OneTransaction .writeRegister where
  notInit := nofun
  ends _ h := by simp [nextTransaction, h]
  keepsNone := rfl

/-- An operation that has been started can begin its first transaction where the link is idle. -/
theorem canBegin_startOperation (hop : op ≠ .initialise) (hf : s.fault = none) (hl : LinkIdle s)
    (hn : nextTransaction op (startOperation op host s) = some (d, a, v)) :
    CanBegin op d a v (startOperation op host s) :=
  ⟨hf, rfl, hop, hn, hl⟩

/-- After its transaction an operation of one has its return to come. -/
theorem canReturn_afterT6 (O : OneTransaction op) (C : CanBegin op d a v s) (h0 : s.mstage = 0) (b : Bool) :
    CanReturn op (afterT6 op d a v s b) := by
  obtain ⟨hph, -, -, -, -, htx, hact, -⟩ := C.link
  exact ⟨C.fault, C.mop, O.notInit, O.ends _ (by simp [afterT6, h0]), hph, hact, htx⟩

/-- An operation of one transaction, started on an idle and fair link, ends with the transaction's effect, and with the
value it returns where the host issued it (41 R160). -/
theorem runOperation_oneTransaction (O : OneTransaction op) (hf : s.fault = none) (hm : s.mop = none)
    (hl : LinkIdle s) (hfair : LinkFair s)
    (hn : nextTransaction op (startOperation op host s) = some (d, a, v)) :
    ∃ b ts, ts <:+ s.sched ∧ runOperation (startOperation op host s) =
      { transacted d a v s with
        result := if host then (returnValue op (transacted d a v s)).getD s.result else s.result
        hostIssued := host, mstage := 0, bsy := b, sched := ts } := by
  have C := canBegin_startOperation O.notInit hf hl hn
  obtain ⟨b, ts, hs, hrun⟩ := run_one C (canReturn_afterT6 O C rfl) hfair
  have hvalue : returnValue op (afterT6 op d a v (startOperation op host s) b) =
      returnValue op (transacted d a v s) := by
    cases op <;> simp [returnValue, afterT6, transacted, startOperation, dataAnswer, O.keepsNone]
  refine ⟨b, ts, hs, hrun.trans ?_⟩
  simp only [returnStep, hvalue]
  simp [afterT6, transacted, startOperation, dataAnswer, slaveAfter, O.keepsNone, hm]

/-! ### `readRegister` and `writeRegister` (41 R168, R169) -/

theorem exec_readRegister (hr : MtsReady s) (hfair : LinkFair s) (a : Addr7) :
    ∃ b ts, ts <:+ s.sched ∧ exec (.readRegister a) s = .next
      { transacted true a 0 s with
        result := (dataAnswer true a s).setWidth 16
        maddr := a, hostIssued := true, mstage := 0, bsy := b, sched := ts } := by
  obtain ⟨hf, hm, hi, hl⟩ := hr
  obtain ⟨b, ts, hs, hrun⟩ := runOperation_oneTransaction (s := { s with maddr := a }) (host := true)
    oneTransaction_readRegister hf hm hl hfair (d := true) (a := a) (v := 0) rfl
  refine ⟨b, ts, hs, ?_⟩
  rw [exec, execReadRegister, issueOperation_runs _ hf hm hi oneTransaction_readRegister.notInit, hrun]
  rfl

/-- Settles O40: the run of one reading transaction, whose Byte is returned. -/
theorem readRegisterCompletes : Obligations.ReadRegisterCompletes :=
  fun _ a hr hfair => exec_readRegister hr hfair a

/-- Started on an idle and fair link, a write ends with its transaction's effect; it returns nothing. -/
theorem runOperation_writeRegister (hf : s.fault = none) (hm : s.mop = none) (hl : LinkIdle s) (hfair : LinkFair s)
    (host : Bool) (a : Addr7) (v : Byte) :
    ∃ b ts, ts <:+ s.sched ∧ runOperation (startOperation .writeRegister host { s with maddr := a, mval := v }) =
      { transacted false a v s with
        maddr := a, mval := v, hostIssued := host, mstage := 0, bsy := b, sched := ts } := by
  obtain ⟨b, ts, hs, hrun⟩ := runOperation_oneTransaction (s := { s with maddr := a, mval := v }) (host := host)
    oneTransaction_writeRegister hf hm hl hfair (d := false) (a := a) (v := v) rfl
  refine ⟨b, ts, hs, hrun.trans ?_⟩
  cases host <;> rfl

theorem exec_writeRegister (hr : MtsReady s) (hfair : LinkFair s) (a : Addr7) (v : Byte) :
    ∃ b ts, ts <:+ s.sched ∧ exec (.writeRegister a v) s = .next
      { transacted false a v s with
        maddr := a, mval := v, hostIssued := true, mstage := 0, bsy := b, sched := ts } := by
  obtain ⟨hf, hm, hi, hl⟩ := hr
  rw [exec, execWriteRegister, issueOperation_runs _ hf hm hi oneTransaction_writeRegister.notInit]
  obtain ⟨b, ts, hs, hrun⟩ := runOperation_writeRegister hf hm hl hfair true a v
  exact ⟨b, ts, hs, congrArg _ hrun⟩

/-- Settles O41: the run of one writing transaction. -/
theorem writeRegisterCompletes : Obligations.WriteRegisterCompletes :=
  fun _ a v hr hfair => exec_writeRegister hr hfair a v

/-- The wire pattern of a write is the same transaction, with no lifecycle check (log 11). -/
theorem exec_writeRegisterWire (hf : s.fault = none) (hm : s.mop = none) (hl : LinkIdle s) (hfair : LinkFair s)
    (a : Addr7) (v : Byte) :
    ∃ b ts, ts <:+ s.sched ∧ exec (.writeRegisterWire a v) s = .next
      { transacted false a v s with
        maddr := a, mval := v, hostIssued := false, mstage := 0, bsy := b, sched := ts } := by
  rw [exec, execWriteRegisterWire, issueTransaction_runs _ hf hm]
  obtain ⟨b, ts, hs, hrun⟩ := runOperation_writeRegister hf hm hl hfair false a v
  exact ⟨b, ts, hs, congrArg _ hrun⟩

/-! ### The registers of an `EchoSlave` (41 R174, 20 R78) -/

theorem dataAnswer_read_echo (h : s.slave.kind = .echo) :
    dataAnswer true a s = Memory.read s.slave.regs a.toNat := slaveReadValue_echo h

theorem slaveAfter_write_echo (h : s.slave.kind = .echo) : slaveAfter false a v s =
    { s.slave with phase := .desel, regs := Memory.write s.slave.regs a.toNat v } := by
  simp [slaveAfter, slaveDeselect, slaveWriteValue_echo h]

/-- One register of the slave is written, the others read as before. -/
theorem read_slaveAfter_write (h : s.slave.kind = .echo) (hwf : Memory.wf s.slave.regs = true) (b : Addr7) :
    Memory.read (slaveAfter false a v s).regs b.toNat = if b = a then v else Memory.read s.slave.regs b.toNat := by
  rw [slaveAfter_write_echo h, read_write_wf hwf]
  simp only [BitVec.toNat_inj, eq_comm]

/-- After a transaction the host may issue the next operation. -/
theorem mtsReady_transacted (h : MtsReady s) : MtsReady (transacted d a v s) := by
  obtain ⟨hf, hm, hi, hph, hen, hcfg, hclk, hcs, htx, hact, hrx, -⟩ := h
  exact ⟨hf, hm, hi, hph, hen, hcfg, hclk, hcs, htx, hact, hrx, nofun⟩

/-- A write leaves the block ready for the next operation and the slave written. -/
theorem exec_writeRegister_ready (hr : MtsReady s) (hfair : LinkFair s) (a : Addr7) (v : Byte) :
    ∃ t, exec (.writeRegister a v) s = .next t ∧ MtsReady t ∧ LinkFair t ∧ t.slave = slaveAfter false a v s := by
  obtain ⟨b, ts, hts, hw⟩ := exec_writeRegister hr hfair a v
  have hr' : MtsReady (transacted false a v s) := mtsReady_transacted hr
  exact ⟨_, hw, hr', ⟨hfair.1, fun t ht => hfair.2 t (hts.subset ht)⟩, rfl⟩

/-- Settles O50: the read finds the register as the write left it. -/
theorem writeThenReadReturnsTheByte : Obligations.WriteThenReadReturnsTheByte := by
  intro s a v hr hfair hecho hwf
  obtain ⟨t, hw, hr', hfair', hsl⟩ := exec_writeRegister_ready hr hfair a v
  obtain ⟨b, ts, -, hread⟩ := exec_readRegister hr' hfair' a
  have hecho' : t.slave.kind = .echo := by rw [hsl, slaveAfter_write_echo hecho]; exact hecho
  have hbyte : dataAnswer true a t = v := by
    rw [dataAnswer_read_echo hecho', hsl, read_slaveAfter_write hecho hwf, if_pos rfl]
  exact ⟨t, _, hw, hread, by rw [← hbyte], hr'.1⟩

/-- Settles O51: both end with the effect of the writing transaction. -/
theorem writeRegisterStoresOneByte : Obligations.WriteRegisterStoresOneByte := by
  intro s t a v i hi hr hfair hecho hwf he
  have hslave : t.slave = slaveAfter false a v s := by
    obtain rfl | rfl := hi
    · obtain ⟨b, ts, -, hw⟩ := exec_writeRegister hr hfair a v
      cases hw.symm.trans he
      rfl
    · obtain ⟨b, ts, -, hw⟩ := exec_writeRegisterWire hr.1 hr.2.1 hr.2.2.2 hfair a v
      cases hw.symm.trans he
      rfl
  rw [hslave]
  refine ⟨?_, fun b hb => ?_⟩
  · rw [read_slaveAfter_write hecho hwf, if_pos rfl]
  · rw [read_slaveAfter_write hecho hwf, if_neg hb]

end Sys2Proof.Proofs
end

section
/-! PROOFS. The hang (41 R172, 60 R254): with no S-XFER a transaction gets no further than its first frame in the
shifter. -/

namespace Sys2Proof.Proofs

open Sys2Proof.Machine Sys2Proof.Laws

variable {s : State} {op : Op} {d : Bool} {a : Addr7} {v : Byte}

/-- Within the first four stages of a transaction no agent but S-XFER leads out of them, and the sequencer takes T1 and
T2. -/
theorem agentStep_silent (C : CanBegin op d a v s) {t : Turn} (hx : t ≠ .xfer) {k : Nat} (hk : k ≤ 3) (b : Bool) :
    ∃ k' b', agentStep t (txStage op d a v s k b) = txStage op d a v s k' b' ∧ k' ≤ 3 ∧ k ≤ k' ∧
      (t = .sequencer → min 2 (k + 1) ≤ k') := by
  obtain ⟨b', hmove⟩ := C.moves k b t (by omega)
  by_cases ht : t = txNeed k
  · rw [if_pos ht] at hmove
    have h3 : k ≠ 3 := fun h3 => hx (by rw [ht, h3]; rfl)
    exact ⟨k + 1, b', hmove, by omega, by omega, fun _ => by omega⟩
  · rw [if_neg ht] at hmove
    refine ⟨k, b', hmove, hk, le_rfl, fun hs => ?_⟩
    have h2 : ¬k < 2 := fun h => by interval_cases k <;> exact ht hs
    omega

/-- Turns of the agents with no S-XFER among them are all used up within the first four stages, and two turns of the
sequencer are enough for T1 and T2. -/
theorem advance_silent (C : CanBegin op d a v s) : ∀ ts : List Turn, (∀ t ∈ ts, t.isAgent = true ∧ t ≠ .xfer) →
    ∀ k b, k ≤ 3 → ∃ k' b', advance ts (txStage op d a v s k b) = ([], txStage op d a v s k' b') ∧ k' ≤ 3 ∧
      min 2 (k + ts.count .sequencer) ≤ k' := by
  intro ts
  induction ts with
  | nil => exact fun _ k b hk => ⟨k, b, rfl, hk, by simp⟩
  | cons t ts ih =>
    intro hts k b hk
    obtain ⟨hagent, hx⟩ := hts t List.mem_cons_self
    obtain ⟨k₁, b₁, hmove, hk₁, hup, hseq⟩ := agentStep_silent C hx hk b
    obtain ⟨k', b', hrun, hk', hcount⟩ := ih (fun u hu => hts u (List.mem_cons_of_mem t hu)) k₁ b₁ hk₁
    refine ⟨k', b', ?_, hk', ?_⟩
    · rw [advance_cons, C.running k b (by omega), hagent, Bool.and_self, if_pos rfl, hmove, hrun]
    · by_cases ht : t = .sequencer
      · have hstep := hseq ht
        rw [ht, List.count_cons_self]
        omega
      · rw [List.count_cons_of_ne ht]
        omega

/-- With a silent link the run of an operation ends at the hold of T3, the address byte still on its way. -/
theorem runOperation_silent (C : CanBegin op d a v s) (hfair : s.linkFair = false)
    (hsched : ∀ t ∈ s.sched, t.isAgent = true ∧ t ≠ .xfer) :
    ∃ b, runOperation s = { afterT2 d a v s b with sched := [] } ∨
      runOperation s = { afterLoad1 d a v s with sched := [] } := by
  obtain ⟨k, b, hrun, hk, -⟩ := advance_silent C s.sched hsched 0 s.bsy (by omega)
  obtain ⟨k', b', htail, hk', hcount⟩ := advance_silent C (List.replicate 32 .sequencer)
    (fun t ht => by rw [List.eq_of_mem_replicate ht]; decide) k b hk
  have hstart : txStage op d a v s 0 s.bsy = s := rfl
  have hlast : runOperation s = { txStage op d a v s k' b' with sched := [] } := by
    rw [hstart] at hrun
    simp only [runOperation, hrun, txStage_linkFair, hfair, tailTurns, Bool.false_eq_true, if_false, htail]
  rw [List.count_replicate_self] at hcount
  obtain rfl | rfl : k' = 2 ∨ k' = 3 := by omega
  · exact ⟨b', .inl hlast⟩
  · exact ⟨b', .inr hlast⟩

/-- Settles O55: either state at the hold of T3 is as stated. -/
theorem silentLinkHangsTheRead : Obligations.SilentLinkHangsTheRead := by
  intro s a hr hfair hsched
  obtain ⟨hf, hm, hi, hl⟩ := hr
  obtain ⟨-, -, -, -, -, -, -, hrx, -⟩ := id hl
  have C : CanBegin .readRegister true a 0 (startOperation .readRegister true { s with maddr := a }) :=
    canBegin_startOperation nofun hf hl rfl
  have hexec : exec (.readRegister a) s =
      .next (runOperation (startOperation .readRegister true { s with maddr := a })) := by
    rw [exec, execReadRegister, issueOperation_runs _ hf hm hi C.notInit]
  refine ⟨_, hexec, ?_⟩
  obtain ⟨b, hrun | hrun⟩ := runOperation_silent C hfair hsched <;> rw [hrun]
  · exact ⟨rfl, rfl, hrx, rfl, hf, rfl, rfl⟩
  · exact ⟨rfl, rfl, hrx, rfl, hf, rfl, rfl⟩

end Sys2Proof.Proofs
end

section
/-! PROOFS. The other operations of one reading transaction (42 R203, R205; 30 R92): the run is that of `readRegister`,
and only the value returned is theirs. -/

namespace Sys2Proof.Proofs

open Sys2Proof.Machine Sys2Proof.Laws

variable {s : State}

theorem oneTransaction_getBits : OneTransaction .getBits where
  notInit := nofun
  ends _ h := by simp [nextTransaction, h]
  keepsNone := rfl

theorem oneTransaction_getTemperature : OneTransaction .getTemperature where
  notInit := nofun
  ends _ h := by simp [nextTransaction, h]
  keepsNone := rfl

theorem exec_getBits (hr : MtsReady s) (hfair : LinkFair s) (a : Addr7) (m : Byte) :
    ∃ b ts, ts <:+ s.sched ∧ exec (.getBits a m) s = .next
      { transacted true a 0 s with
        result := (dataAnswer true a s &&& m).setWidth 16
        maddr := a, mmask := m, hostIssued := true, mstage := 0, bsy := b, sched := ts } := by
  obtain ⟨hf, hm, hi, hl⟩ := hr
  obtain ⟨b, ts, hs, hrun⟩ := runOperation_oneTransaction (s := { s with maddr := a, mmask := m }) (host := true)
    oneTransaction_getBits hf hm hl hfair (d := true) (a := a) (v := 0) rfl
  refine ⟨b, ts, hs, ?_⟩
  rw [exec, execGetBits, issueOperation_runs _ hf hm hi oneTransaction_getBits.notInit, hrun]
  rfl

/-- Settles O44: the run of one reading transaction, whose Byte is masked at the return. -/
theorem getBitsCompletes : Obligations.GetBitsCompletes :=
  fun _ a m hr hfair => exec_getBits hr hfair a m

theorem exec_getTemperature (hr : MtsReady s) (hfair : LinkFair s) :
    ∃ b ts, ts <:+ s.sched ∧ exec .getTemperature s = .next
      { transacted true 0x0C 0 s with
        result := (dataAnswer true 0x0C s).setWidth 16
        maddr := 0x0C, hostIssued := true, mstage := 0, bsy := b, sched := ts } := by
  obtain ⟨hf, hm, hi, hl⟩ := hr
  obtain ⟨b, ts, hs, hrun⟩ := runOperation_oneTransaction (s := { s with maddr := temperatureAddress }) (host := true)
    oneTransaction_getTemperature hf hm hl hfair (d := true) (a := 0x0C) (v := 0) rfl
  refine ⟨b, ts, hs, ?_⟩
  rw [exec, execGetTemperature, issueOperation_runs _ hf hm hi oneTransaction_getTemperature.notInit, hrun]
  rfl

/-- Settles O46: the run of one reading transaction at the temperature register's address. -/
theorem getTemperatureCompletes : Obligations.GetTemperatureCompletes :=
  fun _ hr hfair => exec_getTemperature hr hfair

/-- The wire pattern of a read is the same transaction, with no lifecycle check and no value returned (log 11). -/
theorem exec_readRegisterWire (hf : s.fault = none) (hm : s.mop = none) (hl : LinkIdle s) (hfair : LinkFair s)
    (a : Addr7) :
    ∃ b ts, ts <:+ s.sched ∧ exec (.readRegisterWire a) s = .next
      { transacted true a 0 s with maddr := a, hostIssued := false, mstage := 0, bsy := b, sched := ts } := by
  obtain ⟨b, ts, hs, hrun⟩ := runOperation_oneTransaction (s := { s with maddr := a }) (host := false)
    oneTransaction_readRegister hf hm hl hfair (d := true) (a := a) (v := 0) rfl
  refine ⟨b, ts, hs, ?_⟩
  rw [exec, execReadRegisterWire, issueTransaction_runs _ hf hm, hrun]
  rfl

end Sys2Proof.Proofs
end

section
/-! PROOFS. Operations of two transactions (42 R200, R201, R204, R206): the Byte of the first is kept in `MTMP` for the
second or for the return. -/

namespace Sys2Proof.Proofs

open Sys2Proof.Machine Sys2Proof.Laws

variable {s : State} {op : Op} {d d' : Bool} {a a' : Addr7} {v v' : Byte}

/-! ### The run -/

/-- The operation runs two transactions and keeps the Byte of the first (30 R106, 42 R206). -/
structure TwoTransactions (op : Op) : Prop where
  notInit : op ≠ .initialise
  ends : ∀ s : State, s.mstage = 2 → nextTransaction op s = none
  keepsFirst : keepsFirstByte op = true

theorem twoTransactions_setBits : TwoTransactions .setBits where
  notInit := nofun
  ends _ h := by simp [nextTransaction, h]
  keepsFirst := rfl

theorem twoTransactions_setFieldValue : TwoTransactions .setFieldValue where
  notInit := nofun
  ends _ h := by simp [nextTransaction, h]
  keepsFirst := rfl

theorem twoTransactions_getAxisValue : TwoTransactions .getAxisValue where
  notInit := nofun
  ends _ h := by simp [nextTransaction, h]
  keepsFirst := rfl

/-- The effect of both transactions, with the Byte of the first in `MTMP`. -/
def transactedTwice (d : Bool) (a : Addr7) (v : Byte) (d' : Bool) (a' : Addr7) (v' : Byte) (s : State) : State :=
  { transacted d' a' v' (transacted d a v s) with mtmp := dataAnswer d a s }

/-- An operation of two transactions, issued by the host on an idle and fair link, ends with the effect of both in
order, and with the value it returns (41 R160). -/
theorem runOperation_twoTransactions (T : TwoTransactions op) (hf : s.fault = none) (hm : s.mop = none)
    (hl : LinkIdle s) (hfair : LinkFair s)
    (hn : nextTransaction op (startOperation op true s) = some (d, a, v))
    (hn' : nextTransaction op (afterT6 op d a v (startOperation op true s) false) = some (d', a', v')) :
    ∃ b ts, ts <:+ s.sched ∧ runOperation (startOperation op true s) =
      { transactedTwice d a v d' a' v' s with
        result := (returnValue op (transactedTwice d a v d' a' v' s)).getD s.result
        hostIssued := true, mstage := 0, bsy := b, sched := ts } := by
  have C := canBegin_startOperation T.notInit hf hl hn
  have C' : CanBegin op d' a' v' (afterT6 op d a v (startOperation op true s) false) :=
    ⟨hf, rfl, T.notInit, hn', linkIdle_afterT6 C.link false⟩
  have R : ∀ b, CanReturn op (afterT6 op d' a' v' (afterT6 op d a v (startOperation op true s) false) b) := by
    obtain ⟨hph, -, -, -, -, htx, hact, -⟩ := hl
    exact fun b => ⟨hf, rfl, T.notInit, T.ends _ rfl, hph, hact, htx⟩
  obtain ⟨b, ts, hs, hrun⟩ := run_two C C' R hfair
  refine ⟨b, ts, hs, hrun.trans ?_⟩
  have hvalue : returnValue op (afterT6 op d' a' v' (afterT6 op d a v (startOperation op true s) false) b) =
      returnValue op (transactedTwice d a v d' a' v' s) := by
    cases op <;> simp [returnValue, afterT6, transactedTwice, transacted, startOperation, dataAnswer, slaveAfter,
      T.keepsFirst]
  simp only [returnStep, hvalue]
  simp [afterT6, transactedTwice, transacted, startOperation, dataAnswer, slaveAfter, T.keepsFirst, hm]

/-! ### `setBits`, `setFieldValue` and `getAxisValue` (42 R200, R201, R204) -/

theorem exec_setBits (hr : MtsReady s) (hfair : LinkFair s) (a : Addr7) (m : Byte) :
    ∃ b ts, ts <:+ s.sched ∧ exec (.setBits a m) s = .next
      { transacted false a (dataAnswer true a s ||| m) (transacted true a 0 s) with
        mtmp := dataAnswer true a s
        maddr := a, mmask := m, hostIssued := true, mstage := 0, bsy := b, sched := ts } := by
  obtain ⟨hf, hm, hi, hl⟩ := hr
  obtain ⟨b, ts, hs, hrun⟩ := runOperation_twoTransactions (s := { s with maddr := a, mmask := m })
    twoTransactions_setBits hf hm hl hfair (d := true) (a := a) (v := 0) rfl
    (d' := false) (a' := a) (v' := dataAnswer true a s ||| m) rfl
  refine ⟨b, ts, hs, ?_⟩
  rw [exec, execSetBits, issueOperation_runs _ hf hm hi twoTransactions_setBits.notInit, hrun]
  rfl

/-- Settles O42: a reading transaction, then one that writes its Byte back with the mask. -/
theorem setBitsCompletes : Obligations.SetBitsCompletes :=
  fun _ a m hr hfair => exec_setBits hr hfair a m

/-- The written Byte under each policy (42 R201, R202). -/
theorem fieldByte_eq (p : StrayPolicy) (r m v : Byte) :
    fieldByte p r m v = (r &&& ~~~m) ||| (if p = .masked then v &&& m else v) := by
  cases p <;> rfl

/-- A value the policy does not refuse passes the check on stray bits (42 R202). -/
theorem strayCheck_passes {m v : Byte} (h : s.strayPolicy = .refuse → v &&& ~~~m = 0) : strayCheck m v s = false := by
  by_cases hpol : s.strayPolicy = .refuse
  · have hbits : hasStrayBits m v = false := bne_eq_false_iff_eq.mpr (h hpol)
    simp [strayCheck, hbits]
  · simp [strayCheck, hpol]

theorem exec_setFieldValue (hr : MtsReady s) (hfair : LinkFair s) (a : Addr7) {m v : Byte}
    (hv : s.strayPolicy = .refuse → v &&& ~~~m = 0) :
    ∃ b ts, ts <:+ s.sched ∧ exec (.setFieldValue a m v) s = .next
      { transacted false a
          ((dataAnswer true a s &&& ~~~m) ||| (if s.strayPolicy = .masked then v &&& m else v))
          (transacted true a 0 s) with
        mtmp := dataAnswer true a s
        maddr := a, mmask := m, mval := v, hostIssued := true, mstage := 0, bsy := b, sched := ts } := by
  obtain ⟨hf, hm, hi, hl⟩ := hr
  rw [← fieldByte_eq]
  obtain ⟨b, ts, hs, hrun⟩ := runOperation_twoTransactions (s := { s with maddr := a, mmask := m, mval := v })
    twoTransactions_setFieldValue hf hm hl hfair (d := true) (a := a) (v := 0) rfl
    (d' := false) (a' := a) (v' := fieldByte s.strayPolicy (dataAnswer true a s) m v) rfl
  refine ⟨b, ts, hs, ?_⟩
  rw [exec, execSetFieldValue, strayCheck_passes hv, if_neg nofun,
    issueOperation_runs _ hf hm hi twoTransactions_setFieldValue.notInit, hrun]
  rfl

/-- Settles O43: past the check on stray bits, a reading transaction, then one that writes its Byte back with the field
replaced. -/
theorem setFieldValueCompletes : Obligations.SetFieldValueCompletes :=
  fun _ a _ _ hr hfair hv => exec_setFieldValue hr hfair a hv

theorem exec_getAxisValue (hr : MtsReady s) (hfair : LinkFair s) (ax : Axis) :
    ∃ b ts, ts <:+ s.sched ∧ exec (.getAxisValue ax) s = .next
      { transacted true (axisBase ax + 1) 0 (transacted true (axisBase ax) 0 s) with
        result := axisPattern (dataAnswer true (axisBase ax + 1) (transacted true (axisBase ax) 0 s))
          (dataAnswer true (axisBase ax) s)
        mtmp := dataAnswer true (axisBase ax) s
        maddr := axisBase ax, hostIssued := true, mstage := 0, bsy := b, sched := ts } := by
  obtain ⟨hf, hm, hi, hl⟩ := hr
  obtain ⟨b, ts, hs, hrun⟩ := runOperation_twoTransactions (s := { s with maddr := axisBase ax })
    twoTransactions_getAxisValue hf hm hl hfair (d := true) (a := axisBase ax) (v := 0) rfl
    (d' := true) (a' := axisBase ax + 1) (v' := 0) rfl
  refine ⟨b, ts, hs, ?_⟩
  rw [exec, execGetAxisValue, issueOperation_runs _ hf hm hi twoTransactions_getAxisValue.notInit, hrun]
  rfl

/-- Settles O45: two reading transactions at the axis' base address and the next, whose Bytes are put together at the
return. -/
theorem getAxisValueCompletes : Obligations.GetAxisValueCompletes := by
  intro s ax base hbase hr hfair
  obtain rfl : base = axisBase ax := by
    cases ax <;> simpa [axisBase] using hbase
  exact exec_getAxisValue hr hfair ax

/-! ### The axis value as a number (42 R204, R208) -/

theorem axisPattern_eq_append (hi lo : Byte) : axisPattern hi lo = hi ++ lo := by
  rw [BitVec.append_def, BitVec.shiftLeftZeroExtend_eq, BitVec.setWidth'_eq]
  rfl

/-- Settles O60: the pattern is the high Byte before the low Byte, and its sign is the high Byte's. -/
theorem axisValueIsSigned : Obligations.AxisValueIsSigned := by
  intro hi lo
  have h : (hi ++ lo).toInt = 2 ^ 8 * hi.toInt + lo.toNat := BitVec.toInt_append
  rw [axisPattern_eq_append, sint16, h]
  omega

end Sys2Proof.Proofs
end

section
/-! PROOFS. The slave's registers after the operations of 42 (42 R207): what a read-modify-write leaves in those of an
`EchoSlave`, and that reading leaves those of every slave. -/

namespace Sys2Proof.Proofs

open Sys2Proof.Machine Sys2Proof.Laws

variable {s : State} {a : Addr7} {v m : Byte}

/-! ### Read-modify-write (42 R200, R201) -/

/-- The slave after a read-modify-write: the written register is the only one that changes. -/
theorem read_slaveAfter_readWrite (h : s.slave.kind = .echo) (hwf : Memory.wf s.slave.regs = true) (b : Addr7) :
    Memory.read (slaveAfter false a v (transacted true a 0 s)).regs b.toNat =
      if b = a then v else Memory.read s.slave.regs b.toNat :=
  read_slaveAfter_write (s := transacted true a 0 s) h hwf b

theorem and_eq_self_of_no_stray (h : v &&& ~~~m = 0) : v &&& m = v := by
  calc v &&& m = v &&& m ||| v &&& ~~~m := by simp [h]
    _ = v := by rw [← BitVec.and_or_distrib_left, BitVec.or_not_self, BitVec.and_allOnes]

/-- Settles O52: with no stray bit the masked value is the value, so the written Byte is the same under each policy. -/
theorem setFieldValueIsolatesTheField : Obligations.SetFieldValueIsolatesTheField := by
  intro s t a m v hr hfair hecho hwf hv he
  obtain ⟨b, ts, -, hx⟩ := exec_setFieldValue hr hfair a fun _ => hv
  have hslave : t.slave = slaveAfter false a ((Memory.read s.slave.regs a.toNat &&& ~~~m) ||| v)
      (transacted true a 0 s) := by
    rw [and_eq_self_of_no_stray hv, ite_self, dataAnswer_read_echo hecho] at hx
    cases hx.symm.trans he
    rfl
  rw [and_eq_self_of_no_stray hv, hslave]
  refine ⟨?_, fun b hb => ?_⟩
  · rw [read_slaveAfter_readWrite hecho hwf, if_pos rfl]
  · rw [read_slaveAfter_readWrite hecho hwf, if_neg hb]

/-- `setBits` leaves the block ready for the next operation, the register with the mask ORed in and the slave an
`EchoSlave` in canonical form. -/
theorem exec_setBits_echo (hr : MtsReady s) (hfair : LinkFair s) (hecho : s.slave.kind = .echo)
    (hwf : Memory.wf s.slave.regs = true) (a : Addr7) (m : Byte) :
    ∃ t, exec (.setBits a m) s = .next t ∧ MtsReady t ∧ LinkFair t ∧ t.slave.kind = .echo ∧
      Memory.wf t.slave.regs = true ∧ ∀ b : Addr7, Memory.read t.slave.regs b.toNat =
        if b = a then Memory.read s.slave.regs a.toNat ||| m else Memory.read s.slave.regs b.toNat := by
  obtain ⟨b, ts, hts, hx⟩ := exec_setBits hr hfair a m
  rw [dataAnswer_read_echo hecho] at hx
  have hr' := mtsReady_transacted (d := false) (a := a) (v := Memory.read s.slave.regs a.toNat ||| m)
    (mtsReady_transacted (d := true) (a := a) (v := 0) hr)
  have hsl := slaveAfter_write_echo (s := transacted true a 0 s) (a := a)
    (v := Memory.read s.slave.regs a.toNat ||| m) hecho
  refine ⟨_, hx, hr', ⟨hfair.1, fun t ht => hfair.2 t (hts.subset ht)⟩, ?_, ?_, read_slaveAfter_readWrite hecho hwf⟩
  · exact (congrArg Slave.kind hsl).trans hecho
  · exact (congrArg (Memory.wf ·.regs) hsl).trans (wf_write hwf a _)

/-- Settles O53: the second `setBits` ORs the mask into a Byte that has it already. -/
theorem setBitsIsIdempotent : Obligations.SetBitsIsIdempotent := by
  intro s a m hr hfair hecho hwf
  obtain ⟨t, ht, hr', hfair', hecho', hwf', hreg⟩ := exec_setBits_echo hr hfair hecho hwf a m
  obtain ⟨u, hu, -, -, -, -, hreg'⟩ := exec_setBits_echo hr' hfair' hecho' hwf' a m
  have hprior : Memory.read t.slave.regs a.toNat = Memory.read s.slave.regs a.toNat ||| m := by
    rw [hreg, if_pos rfl]
  refine ⟨t, u, ht, hu, hprior, fun b hb => by rw [hreg, if_neg hb], fun b => ?_⟩
  rw [hreg' b, hprior, BitVec.or_assoc, BitVec.or_self]
  split
  · next hb => rw [hb, hprior]
  · rfl

/-! ### Reading (42 R207 (c)) -/

/-- Settles O54: each of them ends with the slave deselected and otherwise as it was. -/
theorem readingLeavesTheRegisters : Obligations.ReadingLeavesTheRegisters := by
  intro s t i hi hr hfair he
  have hread : ∃ u, exec i s = .next u ∧ u.slave = slaveDeselect s.slave := by
    obtain ⟨a, rfl⟩ | ⟨a, m, rfl⟩ | ⟨ax, rfl⟩ | rfl | ⟨a, rfl⟩ := hi
    · obtain ⟨b, ts, -, hx⟩ := exec_readRegister hr hfair a
      exact ⟨_, hx, rfl⟩
    · obtain ⟨b, ts, -, hx⟩ := exec_getBits hr hfair a m
      exact ⟨_, hx, rfl⟩
    · obtain ⟨b, ts, -, hx⟩ := exec_getAxisValue hr hfair ax
      exact ⟨_, hx, rfl⟩
    · obtain ⟨b, ts, -, hx⟩ := exec_getTemperature hr hfair
      exact ⟨_, hx, rfl⟩
    · obtain ⟨hf, hm, -, hl⟩ := hr
      obtain ⟨b, ts, -, hx⟩ := exec_readRegisterWire hf hm hl hfair a
      exact ⟨_, hx, rfl⟩
  obtain ⟨u, hu, hslave⟩ := hread
  cases hu.symm.trans he
  rw [hslave]
  exact ⟨rfl, rfl⟩

end Sys2Proof.Proofs
end

section
/-! PROOFS. `initialise` under every schedule of the agents (43 R230, R233; 10 R44). -/

namespace Sys2Proof.Proofs

open Sys2Proof.Machine Sys2Proof.Laws

variable {s : State}

/-- What the return of `initialise` leaves: all eight steps done, no operation in progress, and every field none of them
sets as it was at the issue. -/
theorem initState_returned (hm : s.mop = none) (b : Bool) : initState s 9 b =
    { s with
      spiClk := true, csClk := true, pinsAf := true, csDrv := true, csN := false
      cfg := initCfg, cfgValid := true, en := true, initDone := true
      slave := { s.slave with phase := .awaitAddr }
      trace := s.trace ++ initEvents
      mstage := 0, hostIssued := true } := by
  simp [initState, initEventCount, initEvents, hm]

/-- Settles O38: under every schedule of the agents the run reaches the return, and the state there is the listed one. -/
theorem initialiseCompletes : Obligations.InitialiseCompletes := by
  intro s hready hagents
  obtain ⟨ts, hsuf, hrun⟩ := exec_initialise_of_initReady hready hagents
  obtain ⟨-, hm, -⟩ := hready
  exact ⟨ts, hsuf, by rw [hrun, initState_returned hm]⟩

end Sys2Proof.Proofs
end

section
/-! PROOFS. The faulted block (60 R257 to R259, 10 R38): nothing is issued and no agent moves, so a step that is not the
reset uses up its turn and the word presented and does nothing else. -/

namespace Sys2Proof.Proofs

open Sys2Proof.Machine Sys2Proof.Laws

variable {s : State} {op : Op}

/-! ### Nothing is accepted (40 R120 (1), 41 R160 (1), 60 R257 (0)) -/

theorem issueOperation_faulted {latch : State → State} (h : s.fault ≠ none) : issueOperation op latch s = s :=
  if_pos (Option.isSome_iff_ne_none.mpr h)

theorem issueTransaction_faulted {latch : State → State} (h : s.fault ≠ none) : issueTransaction op latch s = s :=
  if_pos (Option.isSome_iff_ne_none.mpr h)

theorem illegalWord_faulted {w : Word32} (h : s.fault ≠ none) : illegalWord w s = s :=
  if_pos (Option.isSome_iff_ne_none.mpr h)

/-- A stray bit is looked for only past the check on `FAULT` (60 R257 (5)). -/
theorem execSetFieldValue_faulted {a : Addr7} {m v : Byte} (h : s.fault ≠ none) :
    execSetFieldValue a m v s = .next s := by
  have hstray : ¬strayCheck m v s = true := by simp [strayCheck, h]
  rw [execSetFieldValue, if_neg hstray, issueOperation_faulted h]

theorem exec_faulted (i : Instr) (h : s.fault ≠ none) : exec i s = .next s := by
  cases i
  case configure c => exact (isPrimitive_configure c).exec_faulted h
  case enable => exact isPrimitive_enable.exec_faulted h
  case disable => exact isPrimitive_disable.exec_faulted h
  case transmitReady => exact isPrimitive_transmitReady.exec_faulted h
  case receiveReady => exact isPrimitive_receiveReady.exec_faulted h
  case busy => exact isPrimitive_busy.exec_faulted h
  case write b => exact (isPrimitive_write b).exec_faulted h
  case read => exact isPrimitive_read.exec_faulted h
  case setFieldValue a m v => exact execSetFieldValue_faulted h
  case readRegisterWire a => exact congrArg _ (issueTransaction_faulted h)
  case writeRegisterWire a v => exact congrArg _ (issueTransaction_faulted h)
  all_goals exact congrArg _ (issueOperation_faulted h)

/-- Whatever the word is, an operation, an illegal command word or no transaction, it is not accepted. -/
theorem issueWord_faulted (w : PortWord) (h : s.fault ≠ none) : issueWord w s = .next s := by
  unfold issueWord
  split
  · exact exec_faulted _ h
  · split
    · rw [illegalWord_faulted h]
    · exact if_pos (Option.isSome_iff_ne_none.mpr h)

theorem hostTurn_faulted (h : s.fault ≠ none) : hostTurn s = .next { s with program := s.program.tail } := by
  cases hp : s.program with
  | nil =>
    simp only [hostTurn, takeWord, hp, List.tail_nil]
    rw [← hp]
  | cons w ws =>
    simp only [hostTurn, takeWord, hp, List.tail_cons]
    exact issueWord_faulted w h

/-! ### Nothing moves (60 R258, R259) -/

theorem agentEnabled_faulted (u : Turn) (h : s.fault ≠ none) : agentEnabled u s = false := by
  cases u <;> simp [agentEnabled, sequencerEnabled, loadEnabled, xferEnabled, drainEnabled, h]

theorem agentStep_faulted (u : Turn) (h : s.fault ≠ none) : agentStep u s = s :=
  agentStep_held (agentEnabled_faulted u h)

/-- With no turn to come a faulted block gives itself none. -/
theorem defaultTurn_faulted (h : s.fault ≠ none) : defaultTurn s = none := by
  have hseq : sequencerEnabled s = false := agentEnabled_faulted .sequencer h
  have hload : loadEnabled s = false := agentEnabled_faulted .load h
  have hxfer : xferEnabled s = false := agentEnabled_faulted .xfer h
  have hdrain : drainEnabled s = false := agentEnabled_faulted .drain h
  simp [defaultTurn, hseq, hload, hxfer, hdrain, h]

theorem step_faulted_default (h : s.fault ≠ none) (hs : s.sched = []) : step s = .next s := by
  simp [step, takeTurn, hs, defaultTurn_faulted h]

/-- A turn of the host uses up a word; an agent's turn is used up alone. -/
theorem step_faulted_turn {u : Turn} {ts : List Turn} (h : s.fault ≠ none) (hs : s.sched = u :: ts)
    (hu : u ≠ .reset) :
    step s = .next { s with sched := ts, program := if u = .host then s.program.tail else s.program } := by
  have hrest : ({ s with sched := ts } : State).fault ≠ none := h
  cases u
  case reset => exact absurd rfl hu
  case host => simpa [step, takeTurn, hs] using hostTurn_faulted hrest
  all_goals simpa [step, takeTurn, hs] using agentStep_faulted _ hrest

/-- Settles O13: no instruction is accepted, and a step has a turn of the schedule to use up or none at all. -/
theorem faultedBlockStaysAsItIs : Obligations.FaultedBlockStaysAsItIs := by
  refine ⟨fun i s h => exec_faulted i h, fun s t f hf hreset hstep => ?_⟩
  have h : s.fault ≠ none := by simp [hf]
  cases hs : s.sched with
  | nil =>
    cases (step_faulted_default h hs).symm.trans hstep
    rfl
  | cons u ts =>
    have hu : u ≠ .reset := by simpa [hs] using hreset
    cases (step_faulted_turn h hs hu).symm.trans hstep
    rfl

end Sys2Proof.Proofs
end

section
/-! PROOFS. The reset turn and the end of a run (70 R280, R281, R298): a reset turn puts the block back whatever state
it is in, and with no operation in progress and nothing under way in the shifter there is no agent to move. -/

namespace Sys2Proof.Proofs

open Sys2Proof.Machine Sys2Proof.Laws

variable {s : State}

/-! ### The reset turn (70 R280, R281) -/

/-- A reset turn is used up and resets the block, in any state: no fault and no operation in progress stops it. -/
theorem step_reset {ts : List Turn} (hs : s.sched = .reset :: ts) :
    step s = .next (blockReset { s with sched := ts }) := by
  simp [step, takeTurn, hs]

/-- Settles O12: the block's fields are those of `State.reset`, with the values R43 lists, and the others stay. -/
theorem resetTurnResetsTheBlock : Obligations.ResetTurnResetsTheBlock := by
  intro s ts hs
  refine ⟨_, step_reset hs, ?_⟩
  have listed : Obligations.ResetLeavesTheListedValues := resetLeavesTheListedValues
  unfold Obligations.ResetLeavesTheListedValues at listed
  have buffers : State.reset.txBuf = none ∧ State.reset.rxBuf = none := ⟨rfl, rfl⟩
  simp [listed, buffers]

/-! ### The end of a run (70 R298) -/

theorem sequencerEnabled_of_mop_none (hm : s.mop = none) : sequencerEnabled s = false := by
  simp [sequencerEnabled, hm]

/-- The sequencer has no operation, S-LOAD no Byte, S-XFER no frame and S-DRAIN no activity to end. -/
theorem agentEnabled_final (u : Turn) (h : s.final) : agentEnabled u s = false := by
  obtain ⟨-, hm, -, -, htxe, hact, hbsy⟩ := h
  cases u
  case host => rfl
  case sequencer => exact sequencerEnabled_of_mop_none hm
  case load => simp [agentEnabled, loadEnabled, htxe]
  case xfer => simp [agentEnabled, xferEnabled, hact]
  case drain => simp [agentEnabled, drainEnabled, hbsy]
  case reset => rfl

/-- Where no agent can move and the host has no word left, nobody is given the turn that `sched` does not give. -/
theorem defaultTurn_eq_none (hagent : ∀ u, agentEnabled u s = false) (hp : s.program = []) :
    defaultTurn s = none := by
  have hseq : sequencerEnabled s = false := hagent .sequencer
  have hload : loadEnabled s = false := hagent .load
  have hxfer : xferEnabled s = false := hagent .xfer
  have hdrain : drainEnabled s = false := hagent .drain
  simp [defaultTurn, hseq, hload, hxfer, hdrain, hp]

theorem step_of_defaultTurn_none (hs : s.sched = []) (hd : defaultTurn s = none) : step s = .next s := by
  simp [step, takeTurn, hs, hd]

/-- Settles O14: no agent is enabled, and the host has issued every word. -/
theorem finalStateStays : Obligations.FinalStateStays := by
  intro s h
  have hagent (u : Turn) : agentEnabled u s = false := agentEnabled_final u h
  obtain ⟨hp, -⟩ := h
  exact ⟨fun u => agentStep_held (hagent u), fun hs => step_of_defaultTurn_none hs (defaultTurn_eq_none hagent hp)⟩

end Sys2Proof.Proofs
end

section
/-! PROOFS. The host's and the agents' turns (00 R2, R9; log 4, log 13): a turn of the host issues its next word, and a
word issued is the instruction it decodes to. -/

namespace Sys2Proof.Proofs

open Sys2Proof.Machine Sys2Proof.Laws

variable {s : State}

/-- A word that decodes runs as its instruction, whichever kind of word it is. -/
theorem issueWord_decoded {w : PortWord} {i : Instr} (hw : decode w = .ok i) : issueWord w s = exec i s := by
  simp only [issueWord, hw]

/-- With no turn to come the host's default turn issues its next word (log 4). -/
theorem step_host_default {w : PortWord} {ws : List PortWord} (hs : s.sched = []) (hd : defaultTurn s = some .host)
    (hp : s.program = w :: ws) : step s = issueWord w { s with program := ws } := by
  simp [step, takeTurn, hs, hd, hostTurn, takeWord, hp]

/-- An agent's turn is that agent's step, in the state without the turn. -/
theorem step_agent {t : Turn} {ts : List Turn} (hs : s.sched = t :: ts) (ht : t.isAgent = true) :
    step s = .next (agentStep t { s with sched := ts }) := by
  cases t
  case host => exact absurd ht Bool.false_ne_true
  case reset => exact absurd ht Bool.false_ne_true
  all_goals simp [step, takeTurn, hs]

/-- Settles O9: the turn decides who moves, and the host's word is issued as the instruction it decodes to. -/
theorem stepRunsTheDecodedInstruction : Obligations.StepRunsTheDecodedInstruction := by
  refine ⟨fun s ts w ws i hs hp hw => ?_, fun s w ws i hs hd hp hw => ?_, fun s t ts => step_agent⟩
  · rw [step_host hs hp, issueWord_decoded hw]
  · rw [step_host_default hs hd hp, issueWord_decoded hw]

/-! ### A placed word (log 13) -/

/-- Placing a word and taking the host's turn for it cancel out. -/
theorem step_placeWord (w : PortWord) (s : State) : step (placeWord w s) = issueWord w s :=
  step_host rfl rfl

theorem toOption_eq_some_iff {ε α : Type} {r : Except ε α} {x : α} : r.toOption = some x ↔ r = .ok x := by
  cases r <;> simp [Except.toOption]

/-- Where bits decode, the word placed is the one they were decoded as. -/
theorem withFetchWord_decoded {nbits w : Nat} {i : Instr} (h : decodeTableWord nbits w = some i) :
    ∃ p, decode p = .ok i ∧ s.withFetchWord nbits w = placeWord p s := by
  unfold decodeTableWord at h
  split at h
  · exact ⟨_, toOption_eq_some_iff.mp h, rfl⟩
  · exact ⟨_, toOption_eq_some_iff.mp h, rfl⟩
  · cases h

/-- Settles O10: the placed word is issued by the host's turn placed with it. -/
theorem placedWordRunsNext : Obligations.PlacedWordRunsNext := by
  intro s nbits w i h
  obtain ⟨p, hp, hplaced⟩ := withFetchWord_decoded (s := s) h
  rw [hplaced, step_placeWord, issueWord_decoded hp]

end Sys2Proof.Proofs
end

section
/-! PROOFS. The invariants of the block right after reset (10 R43; log 2, log 18). -/

namespace Sys2Proof.Proofs

open Sys2Proof.Machine

/-- Settles O57: at reset nothing is in progress and nothing enabled, `CS_N` is kept at 1, and the slave's memory
lists no cell. -/
theorem blockInvariantsHoldAtReset : Obligations.BlockInvariantsHoldAtReset :=
  ⟨fun h => absurd rfl h, nofun, nofun, fun _ => rfl, nofun, nofun, fun _ => rfl, rfl⟩

end Sys2Proof.Proofs
end

section
/-! PROOFS. The wire patterns run by themselves (30 R91, R92; 41 R161, R170; log 11): where they complete, where they
are refused, and where T1 finds the chip-select pin not driven. -/

namespace Sys2Proof.Proofs

open Sys2Proof.Machine Sys2Proof.Laws

variable {s : State} {op : Op} {d : Bool} {a : Addr7} {v : Byte}

/-- Settles O47: each pattern is the run of its one transaction. -/
theorem wireTransactionsComplete : Obligations.WireTransactionsComplete :=
  fun _ a v hf hm hl hfair => ⟨exec_readRegisterWire hf hm hl hfair a, exec_writeRegisterWire hf hm hl hfair a v⟩

theorem issueTransaction_reentry {r : Op} {latch : State → State} (hf : s.fault = none) (hm : s.mop = some r) :
    issueTransaction op latch s = raise (.reentry op r) s := by
  simp [issueTransaction, hf, hm]

/-! ### T1 with the chip-select pin not driven (41 R161) -/

/-- The operation in progress has a T1 to take, and the chip-select pin is not an output. -/
structure T1Undriven (op : Op) (d : Bool) (a : Addr7) (v : Byte) (s : State) : Prop where
  fault : s.fault = none
  mop : s.mop = some op
  notInit : op ≠ .initialise
  phase : s.phase = .idle
  next : nextTransaction op s = some (d, a, v)
  drv : s.csDrv = false

theorem T1Undriven.agentStep (U : T1Undriven op d a v s) :
    Machine.agentStep .sequencer s = raise .csNotDriven s := by
  obtain ⟨hf, hm, hop, hp, hn, hdrv⟩ := U
  have hstep : sequencerStep s = settle s (t1 d a v s) := by
    cases op <;> simp_all [sequencerStep, idleStep]
  have ht1 : t1 d a v s = .error .csNotDriven := by simp [t1, csAssert, hdrv, Except.map]
  rw [agentStep_sequencer (by simp [sequencerEnabled, hf, hm, hp]), hstep, ht1, settle_error]

theorem T1Undriven.bsy (U : T1Undriven op d a v s) (b : Bool) : T1Undriven op d a v { s with bsy := b } := by
  obtain ⟨hf, hm, hop, hp, hn, hdrv⟩ := U
  refine ⟨hf, hm, hop, hp, ?_, hdrv⟩
  rw [← hn]
  cases op <;> rfl

/-- The two stages of such an operation: waiting for T1, and faulted at it. -/
def undrivenStage (s : State) (k : Nat) (b : Bool) : State :=
  if k = 0 then { s with bsy := b } else raise .csNotDriven { s with bsy := b }

/-- With no frame in `TXBUF` or `SHIFT` only S-DRAIN can step before T1, so `BSY` alone is free. -/
theorem undrivenCourse (U : T1Undriven op d a v s) (htx : s.txBuf = none) (hact : s.shiftAct = false) :
    Course (undrivenStage s) (fun _ => .sequencer) 1 where
  runs k b hk := by
    obtain rfl : k = 0 := by omega
    simp [undrivenStage, State.running, U.fault, U.mop]
  ends b := by simp [undrivenStage, State.running]
  moves k b t hk ht := by
    obtain rfl : k = 0 := by omega
    cases t
    case host => exact absurd ht Bool.false_ne_true
    case reset => exact absurd ht Bool.false_ne_true
    case sequencer => exact ⟨b, (U.bsy b).agentStep⟩
    case load => exact ⟨b, agentStep_held (by simp [agentEnabled, loadEnabled, undrivenStage, State.txe, htx])⟩
    case xfer => exact ⟨b, agentStep_held (by simp [agentEnabled, xferEnabled, undrivenStage, hact])⟩
    case drain =>
      obtain ⟨b', hb, -⟩ := drain_bsy { s with bsy := b }
      exact ⟨b', hb⟩

/-- Under a schedule of the agents that finds no frame to move the run ends in the fault at T1. -/
theorem T1Undriven.runOperation_agents (U : T1Undriven op d a v s) (hs : ∀ t ∈ s.sched, t.isAgent = true)
    (htx : s.txBuf = none) (hact : s.shiftAct = false) :
    ∃ b ts, runOperation s = raise .csNotDriven { s with bsy := b, sched := ts } := by
  have hneed : .sequencer ∈ if s.linkFair then fairRound else [.sequencer] := by cases s.linkFair <;> decide
  obtain ⟨b, ts, hrun, -⟩ := (undrivenCourse U htx hact).runOperation (by omega) (k := 0) (b := s.bsy) (by omega) hs
    (fun _ _ => hneed) (fun j b => by cases j <;> rfl)
  exact ⟨b, ts, hrun⟩

/-- With no turn to come the sequencer moves first, so the run ends in the fault at T1 whatever the shifter holds
(log 4, log 5). -/
theorem T1Undriven.runOperation_default (U : T1Undriven op d a v s) (hs : s.sched = []) :
    runOperation s = raise .csNotDriven { s with sched := [] } := by
  obtain ⟨ts, htail⟩ : ∃ ts, tailTurns s.linkFair = .sequencer :: ts := by cases s.linkFair <;> exact ⟨_, rfl⟩
  have hruns : s.running = true := by simp [State.running, U.fault, U.mop]
  have hstops : (raise .csNotDriven s).running = false := by simp [State.running]
  have hrun : advance (.sequencer :: ts) s = (ts, raise .csNotDriven s) := by
    rw [advance_cons, if_pos (by rw [hruns]; rfl), U.agentStep, advance_stopped hstops]
  simp only [runOperation, hs, advance_nil, htail, hrun]
  rfl

/-- The schedule lets no frame move before T1: no turn is to come, or the agents have none to move. -/
abbrev NoFrameBeforeT1 (s : State) : Prop :=
  s.sched = [] ∨ ((∀ t ∈ s.sched, t.isAgent = true) ∧ s.txBuf = none ∧ s.shiftAct = false)

/-- Either way the run changes `FAULT` alone, `BSY` and the schedule aside. -/
theorem T1Undriven.runOperation (U : T1Undriven op d a v s) (h : NoFrameBeforeT1 s) :
    ∃ b ts, Machine.runOperation s = raise .csNotDriven { s with bsy := b, sched := ts } := by
  obtain hs | ⟨hs, htx, hact⟩ := h
  · exact ⟨s.bsy, [], U.runOperation_default hs⟩
  · exact U.runOperation_agents hs htx hact

/-- A transaction started by itself over an undriven chip-select is `CsNotDriven`, with no event and no frame at the
slave. -/
theorem issueTransaction_undriven {latch : State → State} (hf : s.fault = none) (hm : s.mop = none)
    (U : T1Undriven op d a v (startOperation op false (latch s)))
    (h : NoFrameBeforeT1 (startOperation op false (latch s))) :
    ∃ b ts, issueTransaction op latch s =
      raise .csNotDriven { startOperation op false (latch s) with bsy := b, sched := ts } := by
  rw [issueTransaction_runs _ hf hm]
  exact U.runOperation h

/-- Settles O48: an operation in progress is met by the check of the issue, an undriven chip-select by T1. -/
theorem wireTransactionsFault : Obligations.WireTransactionsFault := by
  intro s a v hf
  refine ⟨fun r hm => ?_, fun hm hp hdrv h => ?_⟩
  · exact ⟨congrArg _ (issueTransaction_reentry hf hm), congrArg _ (issueTransaction_reentry hf hm)⟩
  · obtain ⟨b, ts, hread⟩ := issueTransaction_undriven (op := .readRegister) (latch := fun s => { s with maddr := a })
      hf hm ⟨hf, rfl, nofun, hp, rfl, hdrv⟩ h
    obtain ⟨b', ts', hwrite⟩ := issueTransaction_undriven (op := .writeRegister)
      (latch := fun s => { s with maddr := a, mval := v }) hf hm ⟨hf, rfl, nofun, hp, rfl, hdrv⟩ h
    exact ⟨⟨_, congrArg Host.Outcome.next hread, rfl, rfl, rfl⟩,
      _, congrArg Host.Outcome.next hwrite, rfl, rfl, rfl⟩

end Sys2Proof.Proofs
end
